-- ==== Sys2Proof/Word.lean ====
section
/-! DEFINITION. The two word types of the lcd-drivers core and their plainest arithmetic (00_scope.md R11, R12). -/

namespace Sys2Proof

/-- A byte: 8 bits numbered 7 down to 0 (00_scope.md R12). -/
abbrev Byte := BitVec 8

/-- A word of the request port: 32 bits (30_encoding.md R75). -/
abbrev Word := BitVec 32

/-- The least integer not below `a / b`, for naturals (00_scope.md R11). -/
def ceilDiv (a b : Nat) : Nat := (a + b - 1) / b

end Sys2Proof
end

