-- ==== Sys2Proof/Config.lean ====
section
/-! DEFINITION. The configuration record of the block (00_scope.md R8, 44_session.md R180), fixed at construction, and
the free value of the model: the platform's answers (42_bus_transport.md R142). -/

namespace Sys2Proof

/-- The packing layout `LAYOUT` (00_scope.md R8): 1 bpp; 2 bpp packed 4 pixels a byte along x; 2 bpp packed along y in
two bit planes. -/
inductive Layout where
  | l1
  | x2
  | y2
deriving DecidableEq, Repr

/-- `Y2_PLANE_ORDER` (00_scope.md R8, 20_memory.md R55): which pattern bit the byte at the lower address holds. -/
inductive PlaneOrder where
  | msbFirst
  | lsbFirst
deriving DecidableEq, Repr

/-- The values of the variant `Monochrome` of ColorValue (10_state.md R25). -/
inductive Mono where
  | off
  | on
deriving DecidableEq, Repr

/-- The values of the variant `Gray2` of ColorValue (10_state.md R25). -/
inductive Gray2 where
  | black
  | white
  | gray1
  | gray2
deriving DecidableEq, Repr

/-- A ColorValue (10_state.md R25). -/
inductive ColorValue where
  | mono (c : Mono)
  | gray (c : Gray2)
deriving DecidableEq, Repr

/-- `GRAY2_PAT` as plain data: the 2-bit pattern of each grayscale color (00_scope.md R8, 10_state.md R27). -/
structure Gray2Pattern where
  black : BitVec 2
  white : BitVec 2
  gray1 : BitVec 2
  gray2 : BitVec 2
deriving DecidableEq, Repr

/-- One `(opcode, payload)` pair of a device-profile sequence (44_session.md R180). -/
structure ProfileCommand where
  opcode : Byte
  payload : List Byte
deriving DecidableEq, Repr

/-- `ACHROMATIC_OP` and `CHROMATIC_OP`, which a profile has only when `TWO_PLANE` (44_session.md R180). -/
structure PlaneOps where
  achromaticOp : Byte
  chromaticOp : Byte
deriving DecidableEq, Repr

/-- `PROFILE_OPS` (44_session.md R180). `TWO_PLANE` is whether `planeOps` is present. -/
structure ProfileOps where
  writeOp : Byte
  refreshSeq : List ProfileCommand
  sleepSeq : List ProfileCommand
  planeOps : Option PlaneOps
deriving DecidableEq, Repr

/-- The configuration record (00_scope.md R8). `BIT_DEPTH` and `LEN` are derived from it (`Config.bitDepth`,
`Config.len`); which records are well formed is `Config.wellFormed`. -/
structure Config where
  width : Nat
  height : Nat
  layout : Layout
  gray2Pat : Gray2Pattern
  y2PlaneOrder : PlaneOrder
  chunkLimit : Option Nat
  resetLowMs : Nat
  initSeq : List ProfileCommand
  defaultBackground : ColorValue
  profileOps : ProfileOps
  surfacePinErrors : Bool
deriving DecidableEq, Repr

/-- `GRAY2_EX`, the example patterns of the spec's vectors (10_state.md R27). -/
def Gray2Pattern.gray2Ex : Gray2Pattern :=
  { black := 0b00, white := 0b11, gray1 := 0b01, gray2 := 0b10 }

/-- The configuration the state after reset carries: layout `L1`, 10 by 3, with the made-up profile of 95_test_vectors.md
V7 and P5. DESIGN CHOICE (log 1), unsafe: the spec leaves every parameter open, so no statement rests on this value. -/
def Config.atReset : Config :=
  { width := 10
    height := 3
    layout := .l1
    gray2Pat := Gray2Pattern.gray2Ex
    y2PlaneOrder := .msbFirst
    chunkLimit := some 4096
    resetLowMs := 10
    initSeq := [⟨0x12, []⟩, ⟨0x01, [0x27, 0x01]⟩]
    defaultBackground := .mono .off
    profileOps :=
      { writeOp := 0x24
        refreshSeq := [⟨0x20, []⟩]
        sleepSeq := [⟨0x10, [0x01]⟩]
        planeOps := none }
    surfacePinErrors := false }

/-- The platform's answer to one transfer (42_bus_transport.md R142). -/
inductive Answer where
  | ok
  | err
deriving DecidableEq, Repr, Inhabited

/-- The platform's answer to the `n`-th transfer of a run, where no answer is queued: a FREE VALUE, "a free input, no rule
constrains it" (42_bus_transport.md R142, log 2). It has no body, so a statement about it holds whatever it is. -/
opaque Config.platformAnswer : Nat → Answer

end Sys2Proof
end

