-- ==== Sys2Proof/Syntax.lean ====
section
/-! DEFINITION. The 23 operations of the request port (30_encoding.md R80, R93), one constructor per row of
spec/opcode_table.json, and the request frame that carries one. -/

namespace Sys2Proof

/-- The four rotations (10_state.md R24). -/
inductive Rotation where
  | rotate0
  | rotate90
  | rotate180
  | rotate270
deriving DecidableEq, Repr

/-- A color tag, the immediate `A` that names a color on the request port (30_encoding.md R79). What it names depends on
the buffer's depth, so it stays a tag until an operation runs. -/
abbrev ColorTag := Byte

/-- An operation with its operands, in the spec's textual order (30_encoding.md R93). -/
inductive Instr where
  | resolve (x y : Int)
  | setPixel (x y : Int) (color : ColorTag)
  | fill (color : ColorTag)
  | setRotation (rot : Rotation)
  | getRotation
  | rawBytes
  | sendCommand (opcode : Byte)
  | sendData (bytes : List Byte)
  | sendDataVerbatim (bytes : List Byte)
  | sendCommandWithData (opcode : Byte) (bytes : List Byte)
  | repeatByte (value : Byte) (count : Nat)
  | reset (durationLowMs : Nat)
  | new
  | updateFrame (buffer : List Byte)
  | displayFrame
  | updateAndDisplayFrame (buffer : List Byte)
  | clearFrame
  | setBackgroundColor (color : ColorTag)
  | backgroundColor
  | sleep
  | wake
  | updateAchromaticFrame (buffer : List Byte)
  | updateChromaticFrame (buffer : List Byte)
deriving DecidableEq, Repr

/-- One request as the caller presents it: the header word, the operand words and the payload bytes (30_encoding.md R75).
Any words and any bytes may be presented; the decoder says what they are. -/
structure Request where
  words : List Word
  payload : List Byte
deriving DecidableEq, Repr

end Sys2Proof
end

