-- ==== Sys2Proof/Machine/State.lean ====
section
/-! DEFINITION. The state of one block (10_state.md R20), the model's own fields beside it, why a step can stop, and the
state right after construction (70_reset_and_hazards.md R220). -/

namespace Sys2Proof.Machine

/-- A line level (00_scope.md R14). -/
inductive Level where
  | low
  | high
deriving DecidableEq, Repr

/-- What a line holds: nothing the block has driven yet, or the level last driven (10_state.md R29, R30, R43). -/
inductive Line where
  | undriven
  | driven (v : Level)
deriving DecidableEq, Repr

/-- The state of the DeviceController (10_state.md R32). -/
inductive Session where
  | uninitialized
  | ready
  | sleeping
deriving DecidableEq, Repr

/-- A wire event (10_state.md R40). -/
inductive Event where
  /-- `DC(v)`: the select line was driven to `v`. -/
  | dc (v : Level)
  /-- `RST(v)`: the reset line was driven to `v`. -/
  | rst (v : Level)
  /-- `XFER(bs, r)`: one transfer of `bs` was handed to the platform and answered `r`. -/
  | xfer (bs : List Byte) (r : Answer)
  /-- `DELAY(n)`: the block waited at least `n` milliseconds with all lines held. -/
  | delay (ms : Nat)
deriving DecidableEq, Repr

/-- A cell of the framebuffer and the bits of it that hold a pixel: RESOLVE's `(byte_index, bit_mask)`
(40_resolver.md R100). -/
structure Resolved where
  byteIndex : Nat
  bitMask : Byte
deriving DecidableEq, Repr

/-- The status of a response (30_encoding.md R82). -/
inductive Status where
  | ok
  | busError
  | rejected
deriving DecidableEq, Repr

/-- The result of a response (30_encoding.md R82). -/
inductive Result where
  /-- The status alone. -/
  | nothing
  /-- RESOLVE: `none` is `valid = 0`. -/
  | address (r : Option Resolved)
  /-- GET_ROTATION: the rotation number. -/
  | rotation (number : Byte)
  /-- BACKGROUND_COLOR: the color tag. -/
  | color (tag : ColorTag)
  /-- RAW_BYTES: the bytes in ascending index. -/
  | bytes (bs : List Byte)
deriving DecidableEq, Repr

/-- The answer to one request (30_encoding.md R82). -/
structure Response where
  status : Status
  result : Result
deriving DecidableEq, Repr

/-- The framebuffer's contents as the cells that differ from what the index held at construction, by rising index (log 7).
`Memory.wf` says that the form holds, `Memory.read` what an index reads as. -/
abbrev Memory := List Host.Cell

/-- The state. The first eight fields are the whole state the spec gives the block (10_state.md R20); the others are the
model's own: the configuration (log 1), the two inputs (log 2, log 3) and the last response (log 5). -/
structure State where
  /-- `FB` (10_state.md R22). -/
  fb : Memory
  /-- `ROTATION` (10_state.md R24). -/
  rotation : Rotation
  /-- `DC` (10_state.md R29). -/
  dc : Line
  /-- `RST` (10_state.md R30). -/
  rst : Line
  /-- `BACKGROUND` (10_state.md R31). -/
  background : ColorValue
  /-- `SESSION` (10_state.md R32). -/
  session : Session
  /-- `BUSY` (10_state.md R35). -/
  busy : Bool
  /-- `TRACE`, oldest event first (10_state.md R40). -/
  trace : List Event
  /-- The configuration the block was constructed with; no step changes it (00_scope.md R8, log 1). -/
  cfg : Config
  /-- The requests presented and not yet accepted, oldest first (log 3). -/
  requests : List Request
  /-- The last request's outcome (log 5). -/
  response : Option Response
  /-- The platform's answers already known, oldest first (log 2). -/
  answers : List Answer
  /-- How many transfers were made, the index of the platform's next free answer (log 2). -/
  transfers : Nat
deriving DecidableEq, Repr

/-- Why the machine stops with a fault. -/
inductive Fault where
  /-- An access to a framebuffer index that does not exist (20_memory.md R52: "No rule ever forms an index outside"). Raised
  by the byte accesses of Machine/Ops.lean. Safe: it stops where the spec gives no meaning; a well-formed configuration
  never reaches it. -/
  | framebufferIndex (index : Nat)
deriving DecidableEq, Repr

/-- Why the machine refuses to go on. -/
inductive Refusal where
  /-- An instruction without a meaning, named by its mnemonic. Raised by no arm of this model. Safe. -/
  | notModelled (mnemonic : String)
  /-- The configuration is ill formed: "a model refuses any other configuration" (00_scope.md R10, 93 U17). Raised by the
  request port before it accepts anything. Safe: no block with such a configuration exists (R220). -/
  | illFormedConfiguration
deriving DecidableEq, Repr

/-- The state right after construction with configuration `c` (70_reset_and_hazards.md R220, 10_state.md R41 to R46):
every framebuffer byte reads as it does at construction, so no cell is listed. -/
def State.constructed (c : Config) : State :=
  { fb := []
    rotation := .rotate0
    dc := .undriven
    rst := .undriven
    background := c.defaultBackground
    session := .uninitialized
    busy := false
    trace := []
    cfg := c
    requests := []
    response := none
    answers := []
    transfers := 0 }

/-- The machine right after reset: a block just constructed (70_reset_and_hazards.md R220, R221), with the configuration of
log 1. -/
def State.reset : State := State.constructed Config.atReset

end Sys2Proof.Machine
end

