-- ==== Sys2Proof/Machine/Flags.lean ====
section
/-! DEFINITION. The block has no condition code and no flag (10_state.md R34). The one condition it reports is the status
of a response, and its number is all there is to compute. -/

namespace Sys2Proof.Machine

/-- The number of a status on the request port (30_encoding.md R82). -/
def Status.number : Status → Byte
  | .ok => 0
  | .busError => 1
  | .rejected => 2

end Sys2Proof.Machine
end

