-- ==== Sys2Proof/WellFormed.lean ====
section
/-! DEFINITION. Which instructions fit the request port: the operand ranges of 30_encoding.md R77 to R79. Whether the
block accepts one (color depth, session state, lengths) is decided when it runs (R90). -/

namespace Sys2Proof

/-- A coordinate fits a signed 32-bit operand word (30_encoding.md R77). -/
def coordinateFits (v : Int) : Bool := decide (-(2 ^ 31) ≤ v) && decide (v < 2 ^ 31)

/-- A natural fits an unsigned 32-bit operand word (30_encoding.md R77). -/
def countFits (n : Nat) : Bool := decide (n < 2 ^ 32)

/-- A color tag is one of the four the port knows (30_encoding.md R79: `4..255` are illegal at either depth). -/
def colorTagFits (tag : ColorTag) : Bool := decide (tag.toNat < 4)

/-- The operands fit the encoding. -/
def Instr.wellFormed : Instr → Bool
  | .resolve x y => coordinateFits x && coordinateFits y
  | .setPixel x y color => coordinateFits x && coordinateFits y && colorTagFits color
  | .fill color => colorTagFits color
  | .setRotation _ => true
  | .getRotation => true
  | .rawBytes => true
  | .sendCommand _ => true
  | .sendData bytes => countFits bytes.length
  | .sendDataVerbatim bytes => countFits bytes.length
  | .sendCommandWithData _ bytes => countFits bytes.length
  | .repeatByte _ count => countFits count
  | .reset durationLowMs => countFits durationLowMs
  | .new => true
  | .updateFrame buffer => countFits buffer.length
  | .displayFrame => true
  | .updateAndDisplayFrame buffer => countFits buffer.length
  | .clearFrame => true
  | .setBackgroundColor color => colorTagFits color
  | .backgroundColor => true
  | .sleep => true
  | .wake => true
  | .updateAchromaticFrame buffer => countFits buffer.length
  | .updateChromaticFrame buffer => countFits buffer.length

end Sys2Proof
end

