-- ==== Sys2Proof/Decode.lean ====
section
/-! DEFINITION. The request port's decoder and encoder (30_encoding.md Part B, R75 to R81, R90 cases 1 to 4). -/

namespace Sys2Proof

/-- The five request formats (30_encoding.md R76). -/
inductive Format where
  | n
  | a
  | p
  | c
  | l
deriving DecidableEq, Repr

/-- What the immediate field `A` of a header holds (30_encoding.md R76, R80). -/
inductive Immediate where
  | zero
  | anyByte
  | rotation
  | colorTag
deriving DecidableEq, Repr

/-- The 23 operations by name, the rows of the table of 30_encoding.md R80. -/
inductive Operation where
  | resolve
  | setPixel
  | fill
  | setRotation
  | getRotation
  | rawBytes
  | sendCommand
  | sendData
  | sendDataVerbatim
  | sendCommandWithData
  | repeatByte
  | reset
  | new
  | updateFrame
  | displayFrame
  | updateAndDisplayFrame
  | clearFrame
  | setBackgroundColor
  | backgroundColor
  | sleep
  | wake
  | updateAchromaticFrame
  | updateChromaticFrame
deriving DecidableEq, Repr

/-- Why the decoder turns a request away. Each is answered `REJECTED` with nothing changed (30_encoding.md R90); all are
raised by `decodeRequest` alone. -/
inductive DecodeError where
  /-- The frame has no header word (log 4). -/
  | noHeader
  /-- `OP` is not in the table (R90 case 1). -/
  | reservedOperation
  /-- `Z` is not zero (R90 case 2). -/
  | nonzeroZ
  /-- `A` is not zero where it must be (R90 case 3). -/
  | nonzeroImmediate
  /-- `A` is an illegal rotation (R90 case 4, R78). -/
  | illegalRotation
  /-- `A` is a color tag illegal at either depth (R90 case 4, R79). -/
  | illegalColorTag
  /-- The operand words or the payload do not fit the operation's format (R76, log 4). -/
  | malformedFrame
deriving DecidableEq, Repr

/-- The operand words and the payload of a request, read as its format says (30_encoding.md R77). -/
structure Operands where
  x : Int := 0
  y : Int := 0
  count : Nat := 0
  payload : List Byte := []
deriving DecidableEq, Repr

/-- Every operation, in the order of the table (30_encoding.md R80). -/
def Operation.all : List Operation :=
  [.resolve, .setPixel, .fill, .setRotation, .getRotation, .rawBytes,
   .sendCommand, .sendData, .sendDataVerbatim, .sendCommandWithData, .repeatByte, .reset,
   .new, .updateFrame, .displayFrame, .updateAndDisplayFrame, .clearFrame, .setBackgroundColor,
   .backgroundColor, .sleep, .wake, .updateAchromaticFrame, .updateChromaticFrame]

/-- The operation number `OP` (30_encoding.md R80). -/
def Operation.number : Operation → Byte
  | .resolve => 0x00
  | .setPixel => 0x01
  | .fill => 0x02
  | .setRotation => 0x03
  | .getRotation => 0x04
  | .rawBytes => 0x05
  | .sendCommand => 0x10
  | .sendData => 0x11
  | .sendDataVerbatim => 0x12
  | .sendCommandWithData => 0x13
  | .repeatByte => 0x14
  | .reset => 0x15
  | .new => 0x20
  | .updateFrame => 0x21
  | .displayFrame => 0x22
  | .updateAndDisplayFrame => 0x23
  | .clearFrame => 0x24
  | .setBackgroundColor => 0x25
  | .backgroundColor => 0x26
  | .sleep => 0x27
  | .wake => 0x28
  | .updateAchromaticFrame => 0x29
  | .updateChromaticFrame => 0x2A

/-- The format of each operation (30_encoding.md R80). -/
def Operation.format : Operation → Format
  | .resolve | .setPixel => .p
  | .fill | .setRotation | .sendCommand | .setBackgroundColor => .a
  | .getRotation | .rawBytes | .new | .displayFrame | .clearFrame | .backgroundColor | .sleep | .wake => .n
  | .repeatByte | .reset => .c
  | .sendData | .sendDataVerbatim | .sendCommandWithData | .updateFrame | .updateAndDisplayFrame
  | .updateAchromaticFrame | .updateChromaticFrame => .l

/-- What `A` holds for each operation (30_encoding.md R80). -/
def Operation.immediate : Operation → Immediate
  | .setPixel | .fill | .setBackgroundColor => .colorTag
  | .setRotation => .rotation
  | .sendCommand | .sendCommandWithData | .repeatByte => .anyByte
  | .resolve | .getRotation | .rawBytes | .sendData | .sendDataVerbatim | .reset | .new | .updateFrame
  | .displayFrame | .updateAndDisplayFrame | .clearFrame | .backgroundColor | .sleep | .wake
  | .updateAchromaticFrame | .updateChromaticFrame => .zero

/-- The operation with a given number, where there is one (30_encoding.md R80, R90 case 1). -/
def Operation.ofNumber (op : Byte) : Option Operation := Operation.all.find? fun o => o.number == op

/-- The header fields `OP`, `A` and `Z` (30_encoding.md R75). -/
def headerOp (h : Word) : Byte := h.extractLsb' 24 8
def headerA (h : Word) : Byte := h.extractLsb' 16 8
def headerZ (h : Word) : BitVec 16 := h.extractLsb' 0 16

/-- The header word of an operation number and an immediate (30_encoding.md R75). -/
def headerWord (op a : Byte) : Word := (op ++ a) ++ 0#16

/-- The number of a rotation (30_encoding.md R78). -/
def Rotation.number : Rotation → Byte
  | .rotate0 => 0
  | .rotate90 => 1
  | .rotate180 => 2
  | .rotate270 => 3

/-- The rotation with a number `0..3` (30_encoding.md R78); the decoder has refused every larger one before. -/
def Rotation.ofNumber (a : Byte) : Rotation :=
  if a = 0 then .rotate0 else if a = 1 then .rotate90 else if a = 2 then .rotate180 else .rotate270

/-- Why an immediate is illegal, where it is (30_encoding.md R90 cases 3 and 4). A color tag legal at one depth only is
judged when the operation runs (log 8). -/
def Immediate.error (k : Immediate) (a : Byte) : Option DecodeError :=
  match k with
  | .zero => if a = 0 then none else some .nonzeroImmediate
  | .anyByte => none
  | .rotation => if a.toNat < 4 then none else some .illegalRotation
  | .colorTag => if colorTagFits a then none else some .illegalColorTag

/-- The operands a format reads from the words after the header and the payload (30_encoding.md R76, R77): `none` where
there are too few or too many. -/
def Format.operands (f : Format) (ws : List Word) (payload : List Byte) : Option Operands :=
  match f, ws with
  | .n, [] => if payload = [] then some {} else none
  | .a, [] => if payload = [] then some {} else none
  | .p, [x, y] => if payload = [] then some { x := x.toInt, y := y.toInt } else none
  | .c, [cnt] => if payload = [] then some { count := cnt.toNat } else none
  | .l, [len] => if payload.length = len.toNat then some { payload := payload } else none
  | _, _ => none

/-- The instruction of an operation, its immediate and its operands. -/
def Operation.instr (o : Operation) (a : Byte) (v : Operands) : Instr :=
  match o with
  | .resolve => .resolve v.x v.y
  | .setPixel => .setPixel v.x v.y a
  | .fill => .fill a
  | .setRotation => .setRotation (Rotation.ofNumber a)
  | .getRotation => .getRotation
  | .rawBytes => .rawBytes
  | .sendCommand => .sendCommand a
  | .sendData => .sendData v.payload
  | .sendDataVerbatim => .sendDataVerbatim v.payload
  | .sendCommandWithData => .sendCommandWithData a v.payload
  | .repeatByte => .repeatByte a v.count
  | .reset => .reset v.count
  | .new => .new
  | .updateFrame => .updateFrame v.payload
  | .displayFrame => .displayFrame
  | .updateAndDisplayFrame => .updateAndDisplayFrame v.payload
  | .clearFrame => .clearFrame
  | .setBackgroundColor => .setBackgroundColor a
  | .backgroundColor => .backgroundColor
  | .sleep => .sleep
  | .wake => .wake
  | .updateAchromaticFrame => .updateAchromaticFrame v.payload
  | .updateChromaticFrame => .updateChromaticFrame v.payload

/-- The operation a header selects, or why it selects none (30_encoding.md R81, R90 cases 1 to 4). -/
def decodeHeader (h : Word) : Except DecodeError Operation :=
  match Operation.ofNumber (headerOp h) with
  | none => .error .reservedOperation
  | some o =>
    if headerZ h = 0 then
      match o.immediate.error (headerA h) with
      | some e => .error e
      | none => .ok o
    else .error .nonzeroZ

/-- The decoder: total on any words and any bytes, turning away by name. The header is judged before the operands, so a
header alone is turned away for its header (95_test_vectors.md V8). -/
def decodeRequest (r : Request) : Except DecodeError Instr :=
  match r.words with
  | [] => .error .noHeader
  | h :: ws =>
    match decodeHeader h with
    | .error e => .error e
    | .ok o =>
      match o.format.operands ws r.payload with
      | none => .error .malformedFrame
      | some v => .ok (o.instr (headerA h) v)

/-- The operation of an instruction. -/
def Instr.operation : Instr → Operation
  | .resolve _ _ => .resolve
  | .setPixel _ _ _ => .setPixel
  | .fill _ => .fill
  | .setRotation _ => .setRotation
  | .getRotation => .getRotation
  | .rawBytes => .rawBytes
  | .sendCommand _ => .sendCommand
  | .sendData _ => .sendData
  | .sendDataVerbatim _ => .sendDataVerbatim
  | .sendCommandWithData _ _ => .sendCommandWithData
  | .repeatByte _ _ => .repeatByte
  | .reset _ => .reset
  | .new => .new
  | .updateFrame _ => .updateFrame
  | .displayFrame => .displayFrame
  | .updateAndDisplayFrame _ => .updateAndDisplayFrame
  | .clearFrame => .clearFrame
  | .setBackgroundColor _ => .setBackgroundColor
  | .backgroundColor => .backgroundColor
  | .sleep => .sleep
  | .wake => .wake
  | .updateAchromaticFrame _ => .updateAchromaticFrame
  | .updateChromaticFrame _ => .updateChromaticFrame

/-- The immediate field `A` of an instruction (30_encoding.md R76, R80). -/
def Instr.immediate : Instr → Byte
  | .setPixel _ _ color => color
  | .fill color => color
  | .setRotation rot => rot.number
  | .sendCommand opcode => opcode
  | .sendCommandWithData opcode _ => opcode
  | .repeatByte value _ => value
  | .setBackgroundColor color => color
  | .resolve _ _ => 0
  | .getRotation => 0
  | .rawBytes => 0
  | .sendData _ => 0
  | .sendDataVerbatim _ => 0
  | .reset _ => 0
  | .new => 0
  | .updateFrame _ => 0
  | .displayFrame => 0
  | .updateAndDisplayFrame _ => 0
  | .clearFrame => 0
  | .backgroundColor => 0
  | .sleep => 0
  | .wake => 0
  | .updateAchromaticFrame _ => 0
  | .updateChromaticFrame _ => 0

/-- The payload bytes of an instruction (30_encoding.md R76). -/
def Instr.payload : Instr → List Byte
  | .sendData bytes => bytes
  | .sendDataVerbatim bytes => bytes
  | .sendCommandWithData _ bytes => bytes
  | .updateFrame buffer => buffer
  | .updateAndDisplayFrame buffer => buffer
  | .updateAchromaticFrame buffer => buffer
  | .updateChromaticFrame buffer => buffer
  | .resolve _ _ => []
  | .setPixel _ _ _ => []
  | .fill _ => []
  | .setRotation _ => []
  | .getRotation => []
  | .rawBytes => []
  | .sendCommand _ => []
  | .repeatByte _ _ => []
  | .reset _ => []
  | .new => []
  | .displayFrame => []
  | .clearFrame => []
  | .setBackgroundColor _ => []
  | .backgroundColor => []
  | .sleep => []
  | .wake => []

/-- The operand words of an instruction (30_encoding.md R76, R77). -/
def Instr.operandWords : Instr → List Word
  | .resolve x y => [BitVec.ofInt 32 x, BitVec.ofInt 32 y]
  | .setPixel x y _ => [BitVec.ofInt 32 x, BitVec.ofInt 32 y]
  | .repeatByte _ count => [BitVec.ofNat 32 count]
  | .reset durationLowMs => [BitVec.ofNat 32 durationLowMs]
  | .sendData bytes => [BitVec.ofNat 32 bytes.length]
  | .sendDataVerbatim bytes => [BitVec.ofNat 32 bytes.length]
  | .sendCommandWithData _ bytes => [BitVec.ofNat 32 bytes.length]
  | .updateFrame buffer => [BitVec.ofNat 32 buffer.length]
  | .updateAndDisplayFrame buffer => [BitVec.ofNat 32 buffer.length]
  | .updateAchromaticFrame buffer => [BitVec.ofNat 32 buffer.length]
  | .updateChromaticFrame buffer => [BitVec.ofNat 32 buffer.length]
  | .fill _ => []
  | .setRotation _ => []
  | .getRotation => []
  | .rawBytes => []
  | .sendCommand _ => []
  | .new => []
  | .displayFrame => []
  | .clearFrame => []
  | .setBackgroundColor _ => []
  | .backgroundColor => []
  | .sleep => []
  | .wake => []

/-- The request that presents an instruction (30_encoding.md R75, R76, R80). -/
def encode (i : Instr) : Request :=
  { words := headerWord i.operation.number i.immediate :: i.operandWords, payload := i.payload }

/-- `match` of an operation's row: `OP << 24` (30_encoding.md R81). -/
def Operation.rowMatch (o : Operation) : Word := (BitVec.setWidth 32 o.number) <<< 24

/-- `mask` of an operation's row (30_encoding.md R81). -/
def Operation.rowMask (o : Operation) : Word :=
  if o.immediate = .zero then 0xFFFFFFFF else 0xFF00FFFF

/-- How many operand words a format has (30_encoding.md R76). -/
def Format.operandWords : Format → Nat
  | .n => 0
  | .a => 0
  | .p => 2
  | .c => 1
  | .l => 1

/-- The request whose bits are `w`, the first word lowest, then the operand words, then the payload bytes in order; every
bit from `nbits` up is 0 (log 16). -/
def requestOfBits (nbits w : Nat) : Request :=
  let v := w % 2 ^ nbits
  let word := fun k => BitVec.ofNat 32 (v >>> (32 * k))
  match Operation.ofNumber (headerOp (word 0)) with
  | none => { words := [word 0], payload := [] }
  | some o =>
    { words := (List.range (o.format.operandWords + 1)).map word
      payload :=
        if o.format = .l then
          (List.range (word 1).toNat).map fun j => BitVec.ofNat 8 (v >>> (64 + 8 * j))
        else [] }

/-- The instruction the decoder reads from a request whose bits are `w`, numbered as spec/opcode_table.json numbers them. -/
def decodeTableWord (nbits w : Nat) : Option Instr :=
  match decodeRequest (requestOfBits nbits w) with
  | .ok i => some i
  | .error _ => none

end Sys2Proof
end

