-- ==== Sys2Proof/Machine/Operands.lean ====
section
/-! DEFINITION. What the operands and parameters mean: the derived parameters and the well-formed configurations
(00_scope.md R8 to R10), the colors and their patterns (10_state.md R25 to R28, 30_encoding.md R79), the fill bytes
(41_pixelbuffer.md R126) and the chunk split (42_bus_transport.md R145). -/

namespace Sys2Proof

/-- `BIT_DEPTH` (00_scope.md R8). -/
def Layout.bitDepth : Layout → Nat
  | .l1 => 1
  | .x2 => 2
  | .y2 => 2

/-- `LEN`, the framebuffer's length in bytes (00_scope.md R9). -/
def Config.len (c : Config) : Nat := ceilDiv (c.width * c.layout.bitDepth) 8 * c.height

/-- `TWO_PLANE` (44_session.md R180). -/
def Config.twoPlane (c : Config) : Bool := c.profileOps.planeOps.isSome

/-- The pattern of a Monochrome color (10_state.md R26). -/
def pat1 : Mono → BitVec 1
  | .on => 1
  | .off => 0

/-- The pattern of a Gray2 color, `GRAY2_PAT(c)` (10_state.md R27). -/
def Config.pat2 (c : Config) : Gray2 → BitVec 2
  | .black => c.gray2Pat.black
  | .white => c.gray2Pat.white
  | .gray1 => c.gray2Pat.gray1
  | .gray2 => c.gray2Pat.gray2

/-- The color of a Monochrome pattern (10_state.md R28). -/
def unpat1 (p : BitVec 1) : Mono := if p = 1 then .on else .off

/-- The color of a Gray2 pattern (10_state.md R28); `none` only where the patterns break the laws of R27. -/
def Config.unpat2 (c : Config) (p : BitVec 2) : Option Gray2 :=
  [Gray2.black, .white, .gray1, .gray2].find? fun g => c.pat2 g == p

/-- The color operation `invert` (10_state.md R27). -/
def Gray2.invert : Gray2 → Gray2
  | .black => .white
  | .white => .black
  | .gray1 => .gray2
  | .gray2 => .gray1

/-- The laws every value of `GRAY2_PAT` satisfies (10_state.md R27): distinct patterns, and each color's inverse has the
complement pattern. -/
def Gray2Pattern.lawful (p : Gray2Pattern) : Bool :=
  decide ([p.black, p.white, p.gray1, p.gray2].Nodup) && decide (p.white = 3 - p.black) && decide (p.gray2 = 3 - p.gray1)

/-- The pattern of a color as a number, one bit of it or two (10_state.md R26, R27). -/
def Config.pattern (c : Config) : ColorValue → BitVec 2
  | .mono m => (pat1 m).setWidth 2
  | .gray g => c.pat2 g

/-- The color a buffer of this depth holds as a pattern (10_state.md R28). -/
def Config.unpattern (c : Config) (p : BitVec 2) : Option ColorValue :=
  match c.layout with
  | .l1 => some (.mono (unpat1 (p.setWidth 1)))
  | .x2 => (c.unpat2 p).map .gray
  | .y2 => (c.unpat2 p).map .gray

/-- The color is of the buffer's depth (10_state.md R25). -/
def Layout.holds (l : Layout) : ColorValue → Bool
  | .mono _ => l.bitDepth = 1
  | .gray _ => l.bitDepth = 2

/-- The color a tag names at the buffer's depth, `none` for an illegal tag (30_encoding.md R79). -/
def Layout.colorOfTag (l : Layout) (tag : ColorTag) : Option ColorValue :=
  match l with
  | .l1 => if tag = 0 then some (.mono .off) else if tag = 1 then some (.mono .on) else none
  | .x2 => twoBit tag
  | .y2 => twoBit tag
where
  twoBit (tag : ColorTag) : Option ColorValue :=
    if tag = 0 then some (.gray .black)
    else if tag = 1 then some (.gray .white)
    else if tag = 2 then some (.gray .gray1)
    else if tag = 3 then some (.gray .gray2)
    else none

/-- The tag that names a color (30_encoding.md R79). -/
def ColorValue.tag : ColorValue → ColorTag
  | .mono .off => 0
  | .mono .on => 1
  | .gray .black => 0
  | .gray .white => 1
  | .gray .gray1 => 2
  | .gray .gray2 => 3

/-- The byte with every bit alike. -/
def solidByte (bit : Bool) : Byte := if bit then 0xFF else 0x00

/-- `(pa, pb)`, the pattern bits the planes A and B hold (41_pixelbuffer.md R123). -/
def PlaneOrder.planes (o : PlaneOrder) (p : BitVec 2) : Bool × Bool :=
  match o with
  | .msbFirst => (p.getLsbD 1, p.getLsbD 0)
  | .lsbFirst => (p.getLsbD 0, p.getLsbD 1)

/-- `fillbyte(color, i)`, the byte in which every field holds the color (41_pixelbuffer.md R126). -/
def Config.fillByte (c : Config) (color : ColorValue) (i : Nat) : Byte :=
  let p := c.pattern color
  match c.layout with
  | .l1 => solidByte (p == 1)
  | .x2 => p.setWidth 8 * 0x55
  | .y2 => if i % 2 = 0 then solidByte (c.y2PlaneOrder.planes p).1 else solidByte (c.y2PlaneOrder.planes p).2

/-- What an index of the framebuffer holds at construction (10_state.md R41): what an unlisted index reads as (log 7). -/
def Config.resetByte (c : Config) (i : Nat) : Byte := c.fillByte c.defaultBackground i

/-- The well-formed configurations: the geometry of 00_scope.md R10 and the constraints of R8's table (log 9). -/
def Config.wellFormed (c : Config) : Bool :=
  decide (1 ≤ c.width) && decide (1 ≤ c.height)
    && decide (c.width < 2 ^ 32) && decide (c.height < 2 ^ 32) && decide (c.len < 2 ^ 32)
    && (c.layout == .l1 || decide (c.width % 8 = 0))
    && (c.layout != .y2 || decide (c.height % 8 = 0))
    && c.gray2Pat.lawful
    && (match c.chunkLimit with
        | none => true
        | some limit => decide (1 ≤ limit))
    && c.layout.holds c.defaultBackground
    && !c.surfacePinErrors

/-- At most `fuel` chunks of `limit` bytes, the last one what is left (42_bus_transport.md R145). -/
def chunksOf (limit : Nat) : Nat → List Byte → List (List Byte)
  | 0, _ => []
  | _ + 1, [] => []
  | fuel + 1, b :: bs => (b :: bs).take limit :: chunksOf limit fuel ((b :: bs).drop limit)

/-- `split(bytes)` under `CHUNK_LIMIT` (42_bus_transport.md R145, R146). -/
def splitBytes (limit : Option Nat) (bytes : List Byte) : List (List Byte) :=
  match limit with
  | some l => chunksOf l bytes.length bytes
  | none => bytes.map fun b => [b]

/-- A list of `n` bytes is above the platform's transfer limit (42_bus_transport.md R147). -/
def exceedsLimit (limit : Option Nat) (n : Nat) : Bool :=
  match limit with
  | some l => decide (l < n)
  | none => false

end Sys2Proof
end

