-- ==== Sys2Proof/Machine/Ops.lean ====
section
/-! DEFINITION. The shared operations: framebuffer bytes (20_memory.md R52), the lines, delays and transfers
(42_bus_transport.md R140, R142, 43_reset_timer.md R170), running the acts of an operation in order with the abort of a
`BusError` (60_exceptions.md R203), and the request port's acceptance and answers (10_state.md R35, 30_encoding.md R82,
R90). -/

namespace Sys2Proof.Machine

/-- What index `a` holds, where `d` is what an unlisted index holds. -/
def Memory.read (d : Nat → Byte) : Memory → Nat → Byte
  | [], a => d a
  | (b, v) :: m, a => if a = b then v else Memory.read d m a

/-- Write `v` at index `a`, keeping the canonical form. -/
def Memory.write (d : Nat → Byte) : Memory → Nat → Byte → Memory
  | [], a, v => if v = d a then [] else [(a, v)]
  | (b, w) :: m, a, v =>
    if a < b then
      if v = d a then (b, w) :: m else (a, v) :: (b, w) :: m
    else if a = b then
      if v = d a then m else (a, v) :: m
    else (b, w) :: Memory.write d m a v

/-- The contents in which every index `i` below `len` holds `f i`. -/
def Memory.fill (d : Nat → Byte) (len : Nat) (f : Nat → Byte) : Memory :=
  (List.range len).filterMap fun i => if f i = d i then none else some (i, f i)

/-- The canonical form: indices strictly rising and below `len`, no cell equal to what its index reads as unlisted. -/
abbrev Memory.wf (d : Nat → Byte) (len : Nat) (m : Memory) : Prop :=
  (m.map Prod.fst).Pairwise (· < ·) ∧ ∀ cell ∈ m, cell.1 < len ∧ cell.2 ≠ d cell.1

/-- The byte the framebuffer holds at an index. -/
def State.byteAt (s : State) (a : Nat) : Byte := Memory.read s.cfg.resetByte s.fb a

/-- `MemRead(a, 1)` (00_scope.md R13, 20_memory.md R52); an index that does not exist faults (log 10). -/
def State.memRead (s : State) (a : Nat) : Except Fault Byte :=
  if a < s.cfg.len then .ok (s.byteAt a) else .error (.framebufferIndex a)

/-- `MemWrite(a, 1, v)` (00_scope.md R13, 20_memory.md R52); an index that does not exist faults (log 10). -/
def State.memWrite (s : State) (a : Nat) (v : Byte) : Except Fault State :=
  if a < s.cfg.len then .ok { s with fb := Memory.write s.cfg.resetByte s.fb a v } else .error (.framebufferIndex a)

/-- `FB` whole, in ascending index (41_pixelbuffer.md R129, 20_memory.md R59). -/
def State.rawBytes (s : State) : List Byte := (List.range s.cfg.len).map s.byteAt

/-- `MemWrite(i, 1, f i)` for every index (41_pixelbuffer.md R125). -/
def State.fillWith (s : State) (f : Nat → Byte) : State :=
  { s with fb := Memory.fill s.cfg.resetByte s.cfg.len f }

/-- `emit E` (00_scope.md R13, 10_state.md R40). -/
def State.emit (s : State) (e : Event) : State := { s with trace := s.trace ++ [e] }

/-- `SetDC(v)`, which cannot fail (42_bus_transport.md R140, log 18). -/
def State.setDC (s : State) (v : Level) : State := ({ s with dc := .driven v }).emit (.dc v)

/-- `SetRST(v)` (43_reset_timer.md R170). -/
def State.setRST (s : State) (v : Level) : State := ({ s with rst := .driven v }).emit (.rst v)

/-- `Delay(n)` (43_reset_timer.md R170). -/
def State.delay (s : State) (ms : Nat) : State := s.emit (.delay ms)

/-- The platform's answer to the transfer `k` transfers from now: the queued one, or a free value (42_bus_transport.md
R142, log 2). -/
def State.answerAt (s : State) (k : Nat) : Answer :=
  match s.answers[k]? with
  | some r => r
  | none => Config.platformAnswer (s.transfers + k)

/-- `Xfer(bs)`: take the platform's answer and record the transfer with it (42_bus_transport.md R142). The abort on `err` is
`runActs`'s. -/
def State.xfer (s : State) (bs : List Byte) : State × Answer :=
  (({ s with answers := s.answers.tail, transfers := s.transfers + 1 }).emit (.xfer bs (s.answerAt 0)), s.answerAt 0)

/-- One act of an operation's pseudocode that touches the wires. -/
inductive Act where
  | setDC (v : Level)
  | setRST (v : Level)
  | delay (ms : Nat)
  | xfer (bs : List Byte)
deriving DecidableEq, Repr

/-- Perform the acts in order (20_memory.md R64). A transfer answered `err` ends them at once: nothing further is driven or
sent, the lines keep their levels (60_exceptions.md R203). The answer tells whether all were performed. -/
def runActs : List Act → State → State × Answer
  | [], s => (s, .ok)
  | .setDC v :: acts, s => runActs acts (s.setDC v)
  | .setRST v :: acts, s => runActs acts (s.setRST v)
  | .delay ms :: acts, s => runActs acts (s.delay ms)
  | .xfer bs :: acts, s =>
    match (s.xfer bs).2 with
    | .ok => runActs acts (s.xfer bs).1
    | .err => ((s.xfer bs).1, .err)

/-- Accept the oldest request, leaving `rest` presented: the block is busy until the outcome (10_state.md R35). -/
def State.accept (s : State) (rest : List Request) : State := { s with requests := rest, busy := true }

/-- Return an outcome to the caller: the block is no longer busy (10_state.md R35, 30_encoding.md R82). -/
def State.answer (s : State) (status : Status) (result : Result) : State :=
  { s with busy := false, response := some ⟨status, result⟩ }

/-- `return v`: status `OK` (00_scope.md R13). -/
def State.succeed (s : State) (result : Result) : State := s.answer .ok result

/-- Status `REJECTED`, nothing else changed (30_encoding.md R90). -/
def State.reject (s : State) : State := s.answer .rejected .nothing

/-- TAKING THE EXCEPTION, `raise BusError`: the return to the caller with status `BUS_ERROR`. Nothing is saved, no line is
restored, `SESSION` stays (60_exceptions.md R201, R203). The return from it is the acceptance of the next request,
`State.accept`. -/
def State.raiseBusError (s : State) : State := s.answer .busError .nothing

/-- How an operation made of acts ends: after all of them `SESSION` becomes `after` and the status is `OK`
(44_session.md R181); after a failed transfer the exception is taken. -/
def State.conclude (s : State) (after : Session) (r : Answer) : State :=
  match r with
  | .ok => ({ s with session := after }).succeed .nothing
  | .err => s.raiseBusError

/-- Run an operation made of acts to its outcome. -/
def State.perform (s : State) (acts : List Act) (after : Session) : State :=
  (runActs acts s).1.conclude after (runActs acts s).2

/-- Construction: an ill-formed configuration is refused and no block exists (70_reset_and_hazards.md R220). -/
def construct (c : Config) : Option State := if c.wellFormed then some (State.constructed c) else none

end Sys2Proof.Machine
end

