-- ==== Sys2Proof/Machine/Resolver.lean ====
section
/-! DEFINITION. The pixel-address resolver and RESOLVE (40_resolver.md). -/

namespace Sys2Proof.Machine

/-- `LW`, the width of the logical area (40_resolver.md R102). -/
def logicalWidth (c : Config) : Rotation → Nat
  | .rotate0 => c.width
  | .rotate90 => c.height
  | .rotate180 => c.width
  | .rotate270 => c.height

/-- `LH`, the height of the logical area (40_resolver.md R102). -/
def logicalHeight (c : Config) : Rotation → Nat
  | .rotate0 => c.height
  | .rotate90 => c.width
  | .rotate180 => c.height
  | .rotate270 => c.width

/-- The bounds check (40_resolver.md R102). -/
abbrev inBounds (c : Config) (rot : Rotation) (x y : Int) : Prop :=
  (0 ≤ x ∧ x < logicalWidth c rot) ∧ (0 ≤ y ∧ y < logicalHeight c rot)

/-- Step 1, rotate: `(nx, ny)` of a logical point, exact in the integers (40_resolver.md R101). -/
def rotatePoint (c : Config) (rot : Rotation) (x y : Int) : Int × Int :=
  match rot with
  | .rotate0 => (x, y)
  | .rotate90 => (c.width - 1 - y, x)
  | .rotate180 => (c.width - 1 - x, c.height - 1 - y)
  | .rotate270 => (y, c.height - 1 - x)

/-- The inverse of `rotatePoint` on the device area (40_resolver.md R109). -/
def unrotatePoint (c : Config) (rot : Rotation) (nx ny : Int) : Int × Int :=
  match rot with
  | .rotate0 => (nx, ny)
  | .rotate90 => (ny, c.width - 1 - nx)
  | .rotate180 => (c.width - 1 - nx, c.height - 1 - ny)
  | .rotate270 => (c.height - 1 - ny, nx)

/-- The device coordinates of a logical point, `none` outside the area (40_resolver.md R101, R102). -/
def devicePoint (c : Config) (rot : Rotation) (x y : Int) : Option (Nat × Nat) :=
  if inBounds c rot x y then some ((rotatePoint c rot x y).1.toNat, (rotatePoint c rot x y).2.toNat) else none

/-- Step 2, pack (40_resolver.md R103 to R105). -/
def packPoint (c : Config) (nx ny : Nat) : Resolved :=
  match c.layout with
  | .l1 => { byteIndex := ceilDiv c.width 8 * ny + nx / 8, bitMask := 1#8 <<< (nx % 8) }
  | .x2 => { byteIndex := nx / 4 + c.width / 4 * ny, bitMask := 0xC0#8 >>> (nx % 4 * 2) }
  | .y2 => { byteIndex := c.width * 2 * (ny / 8) + nx * 2, bitMask := 1#8 <<< (ny % 8) }

/-- `resolve(x, y, WIDTH, HEIGHT, rot, LAYOUT)` (40_resolver.md R100). -/
def resolve (c : Config) (rot : Rotation) (x y : Int) : Option Resolved :=
  (devicePoint c rot x y).map fun p => packPoint c p.1 p.2

/-- The bounding dimensions of the draw contract (41_pixelbuffer.md R131). -/
def boundingDimensions (s : State) : Nat × Nat := (logicalWidth s.cfg s.rotation, logicalHeight s.cfg s.rotation)

/-- The position of the lower set bit of an `X2` field's mask (40_resolver.md R110). -/
def fieldShift (m : Byte) : Nat := if m = 0xC0 then 6 else if m = 0x30 then 4 else if m = 0x0C then 2 else 0

/-- `field(FB, i, m)`, what a resolved pair holds, as a number (40_resolver.md R110). -/
def fieldOf (s : State) (r : Resolved) : BitVec 2 :=
  let a := s.byteAt r.byteIndex &&& r.bitMask
  match s.cfg.layout with
  | .l1 => if a ≠ 0 then 1 else 0
  | .x2 => (a >>> fieldShift r.bitMask).setWidth 2
  | .y2 =>
    let bitA := BitVec.ofBool (a ≠ 0)
    let bitB := BitVec.ofBool (s.byteAt (r.byteIndex + 1) &&& r.bitMask ≠ 0)
    match s.cfg.y2PlaneOrder with
    | .msbFirst => bitA ++ bitB
    | .lsbFirst => bitB ++ bitA

/-- RESOLVE (40_resolver.md R106). -/
def execResolve (x y : Int) (s : State) : Host.Outcome State Fault Refusal :=
  .next (s.succeed (.address (resolve s.cfg s.rotation x y)))

end Sys2Proof.Machine
end

