-- ==== Sys2Proof/Machine/PixelBuffer.lean ====
section
/-! DEFINITION. The pixel buffer: SET_PIXEL, FILL, SET_ROTATION, GET_ROTATION, RAW_BYTES (41_pixelbuffer.md). -/

namespace Sys2Proof.Machine

/-- Set or clear the bits of a mask (41_pixelbuffer.md R121, R123). -/
def setOrClear (bit : Bool) (b m : Byte) : Byte := if bit then b ||| m else b &&& ~~~m

/-- Write the color's pattern into the field of a device point (41_pixelbuffer.md R121 to R123). -/
def State.writePixel (s : State) (color : ColorValue) (nx ny : Nat) : Except Fault State :=
  let i := (packPoint s.cfg nx ny).byteIndex
  let m := (packPoint s.cfg nx ny).bitMask
  let p := s.cfg.pattern color
  match s.cfg.layout with
  | .l1 => do
    let b ← s.memRead i
    s.memWrite i (setOrClear (p == 1) b m)
  | .x2 => do
    let b ← s.memRead i
    s.memWrite i ((b &&& ~~~m) ||| ((p.setWidth 8 <<< (6 - nx % 4 * 2)) &&& m))
  | .y2 => do
    let a ← s.memRead i
    let t ← s.memWrite i (setOrClear (s.cfg.y2PlaneOrder.planes p).1 a m)
    let b ← t.memRead (i + 1)
    t.memWrite (i + 1) (setOrClear (s.cfg.y2PlaneOrder.planes p).2 b m)

/-- SET_PIXEL (41_pixelbuffer.md R120 to R124). A tag illegal at the buffer's depth is refused before anything is read. -/
def execSetPixel (x y : Int) (color : ColorTag) (s : State) : Host.Outcome State Fault Refusal :=
  match s.cfg.layout.colorOfTag color with
  | none => .next s.reject
  | some c =>
    match devicePoint s.cfg s.rotation x y with
    | none => .next (s.succeed .nothing)
    | some p =>
      match s.writePixel c p.1 p.2 with
      | .ok t => .next (t.succeed .nothing)
      | .error f => .fault f

/-- FILL (41_pixelbuffer.md R125). -/
def execFill (color : ColorTag) (s : State) : Host.Outcome State Fault Refusal :=
  match s.cfg.layout.colorOfTag color with
  | none => .next s.reject
  | some c => .next ((s.fillWith (s.cfg.fillByte c)).succeed .nothing)

/-- SET_ROTATION (41_pixelbuffer.md R127). -/
def execSetRotation (rot : Rotation) (s : State) : Host.Outcome State Fault Refusal :=
  .next (({ s with rotation := rot }).succeed .nothing)

/-- GET_ROTATION (41_pixelbuffer.md R128). -/
def execGetRotation (s : State) : Host.Outcome State Fault Refusal :=
  .next (s.succeed (.rotation s.rotation.number))

/-- RAW_BYTES (41_pixelbuffer.md R129). -/
def execRawBytes (s : State) : Host.Outcome State Fault Refusal :=
  .next (s.succeed (.bytes s.rawBytes))

end Sys2Proof.Machine
end

