-- ==== Sys2Proof/Machine/ResetTimer.lean ====
section
/-! DEFINITION. The power-on reset pulse timer: RESET (43_reset_timer.md). -/

namespace Sys2Proof.Machine

/-- The acts of RESET (43_reset_timer.md R171). -/
def resetActs (durationLowMs : Nat) : List Act :=
  [.setRST .high, .delay 10, .setRST .low, .delay durationLowMs, .setRST .high, .delay 250]

/-- RESET (43_reset_timer.md R171). -/
def execReset (durationLowMs : Nat) (s : State) : Host.Outcome State Fault Refusal :=
  .next (s.perform (resetActs durationLowMs) s.session)

end Sys2Proof.Machine
end

