-- ==== Sys2Proof/Machine/Transport.lean ====
section
/-! DEFINITION. The serial bus multiplexer: SEND_COMMAND, SEND_DATA, SEND_DATA_VERBATIM, SEND_COMMAND_WITH_DATA,
REPEAT_BYTE (42_bus_transport.md). Each operation is the list of acts of its pseudocode. -/

namespace Sys2Proof.Machine

/-- The acts of SEND_COMMAND (42_bus_transport.md R143). -/
def sendCommandActs (opcode : Byte) : List Act := [.setDC .low, .xfer [opcode]]

/-- The acts of SEND_DATA (42_bus_transport.md R144). -/
def sendDataActs (limit : Option Nat) (bytes : List Byte) : List Act :=
  .setDC .high :: (splitBytes limit bytes).map .xfer

/-- The acts of SEND_DATA_VERBATIM (42_bus_transport.md R147). -/
def sendDataVerbatimActs (bytes : List Byte) : List Act := [.setDC .high, .xfer bytes]

/-- The acts of SEND_COMMAND_WITH_DATA: the command phase, then the data phase (42_bus_transport.md R148). -/
def sendCommandWithDataActs (limit : Option Nat) (opcode : Byte) (bytes : List Byte) : List Act :=
  sendCommandActs opcode ++ sendDataActs limit bytes

/-- The acts of REPEAT_BYTE (42_bus_transport.md R149). -/
def repeatByteActs (value : Byte) (count : Nat) : List Act :=
  .setDC .high :: List.replicate count (.xfer [value])

/-- SEND_COMMAND (42_bus_transport.md R143). -/
def execSendCommand (opcode : Byte) (s : State) : Host.Outcome State Fault Refusal :=
  .next (s.perform (sendCommandActs opcode) s.session)

/-- SEND_DATA (42_bus_transport.md R144). -/
def execSendData (bytes : List Byte) (s : State) : Host.Outcome State Fault Refusal :=
  .next (s.perform (sendDataActs s.cfg.chunkLimit bytes) s.session)

/-- SEND_DATA_VERBATIM: one transfer, refused above the platform's limit (42_bus_transport.md R147). -/
def execSendDataVerbatim (bytes : List Byte) (s : State) : Host.Outcome State Fault Refusal :=
  if exceedsLimit s.cfg.chunkLimit bytes.length then .next s.reject
  else .next (s.perform (sendDataVerbatimActs bytes) s.session)

/-- SEND_COMMAND_WITH_DATA (42_bus_transport.md R148). -/
def execSendCommandWithData (opcode : Byte) (bytes : List Byte) (s : State) : Host.Outcome State Fault Refusal :=
  .next (s.perform (sendCommandWithDataActs s.cfg.chunkLimit opcode bytes) s.session)

/-- REPEAT_BYTE (42_bus_transport.md R149). -/
def execRepeatByte (value : Byte) (count : Nat) (s : State) : Host.Outcome State Fault Refusal :=
  .next (s.perform (repeatByteActs value count) s.session)

end Sys2Proof.Machine
end

