-- ==== Sys2Proof/Machine/Session.lean ====
section
/-! DEFINITION. The session operations (44_session.md). Each is refused outside the states of the table of R181. -/

namespace Sys2Proof.Machine

/-- The acts of one profile pair: an empty payload goes out as SEND_COMMAND (44_session.md R180). -/
def profileCommandActs (limit : Option Nat) (p : ProfileCommand) : List Act :=
  if p.payload = [] then sendCommandActs p.opcode else sendCommandWithDataActs limit p.opcode p.payload

/-- `RunSeq(list)` (44_session.md R180). -/
def runSeqActs (limit : Option Nat) (seq : List ProfileCommand) : List Act :=
  seq.flatMap (profileCommandActs limit)

/-- The body NEW and WAKE share: the reset pulse, then the initialisation list (44_session.md R182, R183). -/
def initialiseActs (c : Config) : List Act := resetActs c.resetLowMs ++ runSeqActs c.chunkLimit c.initSeq

/-- The frame write to the opcode `op` (44_session.md R184, R191, R192). -/
def writeFrameActs (c : Config) (op : Byte) (buffer : List Byte) : List Act :=
  sendCommandWithDataActs c.chunkLimit op buffer

/-- The acts of CLEAR_FRAME with background `color` (44_session.md R187). -/
def clearFrameActs (c : Config) (color : ColorValue) : List Act :=
  sendCommandActs c.profileOps.writeOp
    ++ .setDC .high :: (List.range c.len).map fun i => .xfer [c.fillByte color i]

/-- A frame operation with a caller's buffer is accepted (44_session.md R181, R184; 30_encoding.md R90 cases 6 and 7). -/
abbrev acceptsFrame (s : State) (buffer : List Byte) : Prop := s.session = .ready ∧ buffer.length = s.cfg.len

/-- The background operations are accepted (44_session.md R181). -/
abbrev acceptsBackground (s : State) : Prop := s.session = .ready ∨ s.session = .sleeping

/-- NEW (44_session.md R182). -/
def execNew (s : State) : Host.Outcome State Fault Refusal :=
  if s.session = .uninitialized then .next (s.perform (initialiseActs s.cfg) .ready) else .next s.reject

/-- WAKE (44_session.md R183). -/
def execWake (s : State) : Host.Outcome State Fault Refusal :=
  if s.session = .sleeping then .next (s.perform (initialiseActs s.cfg) .ready) else .next s.reject

/-- UPDATE_FRAME (44_session.md R184). -/
def execUpdateFrame (buffer : List Byte) (s : State) : Host.Outcome State Fault Refusal :=
  if acceptsFrame s buffer then .next (s.perform (writeFrameActs s.cfg s.cfg.profileOps.writeOp buffer) .ready)
  else .next s.reject

/-- DISPLAY_FRAME (44_session.md R185); the wait for the panel is outside the block (R7 of 00_scope.md). -/
def execDisplayFrame (s : State) : Host.Outcome State Fault Refusal :=
  if s.session = .ready then .next (s.perform (runSeqActs s.cfg.chunkLimit s.cfg.profileOps.refreshSeq) .ready)
  else .next s.reject

/-- UPDATE_AND_DISPLAY_FRAME (44_session.md R186). -/
def execUpdateAndDisplayFrame (buffer : List Byte) (s : State) : Host.Outcome State Fault Refusal :=
  if acceptsFrame s buffer then
    .next (s.perform (writeFrameActs s.cfg s.cfg.profileOps.writeOp buffer
      ++ runSeqActs s.cfg.chunkLimit s.cfg.profileOps.refreshSeq) .ready)
  else .next s.reject

/-- CLEAR_FRAME (44_session.md R187). A background of the wrong depth, which no run reaches, is refused (10_state.md R25,
log 15). -/
def execClearFrame (s : State) : Host.Outcome State Fault Refusal :=
  if s.session = .ready ∧ s.cfg.layout.holds s.background then
    .next (s.perform (clearFrameActs s.cfg s.background) .ready)
  else .next s.reject

/-- SET_BACKGROUND_COLOR (44_session.md R188). -/
def execSetBackgroundColor (color : ColorTag) (s : State) : Host.Outcome State Fault Refusal :=
  if acceptsBackground s then
    match s.cfg.layout.colorOfTag color with
    | none => .next s.reject
    | some c => .next (({ s with background := c }).succeed .nothing)
  else .next s.reject

/-- BACKGROUND_COLOR (44_session.md R189). -/
def execBackgroundColor (s : State) : Host.Outcome State Fault Refusal :=
  if acceptsBackground s then .next (s.succeed (.color s.background.tag)) else .next s.reject

/-- SLEEP (44_session.md R190). -/
def execSleep (s : State) : Host.Outcome State Fault Refusal :=
  if s.session = .ready then .next (s.perform (runSeqActs s.cfg.chunkLimit s.cfg.profileOps.sleepSeq) .sleeping)
  else .next s.reject

/-- A plane write, which exists on a two-plane profile only (44_session.md R191, R192; 30_encoding.md R90 case 6). -/
def State.planeWrite (s : State) (op : PlaneOps → Byte) (buffer : List Byte) : State :=
  match s.cfg.profileOps.planeOps with
  | none => s.reject
  | some ops => if acceptsFrame s buffer then s.perform (writeFrameActs s.cfg (op ops) buffer) .ready else s.reject

/-- UPDATE_ACHROMATIC_FRAME (44_session.md R191). -/
def execUpdateAchromaticFrame (buffer : List Byte) (s : State) : Host.Outcome State Fault Refusal :=
  .next (s.planeWrite (fun ops => ops.achromaticOp) buffer)

/-- UPDATE_CHROMATIC_FRAME (44_session.md R192). The order of the pair is the caller's obligation; the block keeps nothing
to check it with. -/
def execUpdateChromaticFrame (buffer : List Byte) (s : State) : Host.Outcome State Fault Refusal :=
  .next (s.planeWrite (fun ops => ops.chromaticOp) buffer)

end Sys2Proof.Machine
end

