-- ==== Sys2Proof/Machine/Dispatch.lean ====
section
/-! DEFINITION. One arm per operation, each a direct call of its meaning. -/

namespace Sys2Proof.Machine

def exec (i : Instr) (s : State) : Host.Outcome State Fault Refusal :=
  match i with
  | .resolve x y => Sys2Proof.Machine.execResolve x y s
  | .setPixel x y color => Sys2Proof.Machine.execSetPixel x y color s
  | .fill color => Sys2Proof.Machine.execFill color s
  | .setRotation rot => Sys2Proof.Machine.execSetRotation rot s
  | .getRotation => Sys2Proof.Machine.execGetRotation s
  | .rawBytes => Sys2Proof.Machine.execRawBytes s
  | .sendCommand opcode => Sys2Proof.Machine.execSendCommand opcode s
  | .sendData bytes => Sys2Proof.Machine.execSendData bytes s
  | .sendDataVerbatim bytes => Sys2Proof.Machine.execSendDataVerbatim bytes s
  | .sendCommandWithData opcode bytes => Sys2Proof.Machine.execSendCommandWithData opcode bytes s
  | .repeatByte value count => Sys2Proof.Machine.execRepeatByte value count s
  | .reset durationLowMs => Sys2Proof.Machine.execReset durationLowMs s
  | .new => Sys2Proof.Machine.execNew s
  | .updateFrame buffer => Sys2Proof.Machine.execUpdateFrame buffer s
  | .displayFrame => Sys2Proof.Machine.execDisplayFrame s
  | .updateAndDisplayFrame buffer => Sys2Proof.Machine.execUpdateAndDisplayFrame buffer s
  | .clearFrame => Sys2Proof.Machine.execClearFrame s
  | .setBackgroundColor color => Sys2Proof.Machine.execSetBackgroundColor color s
  | .backgroundColor => Sys2Proof.Machine.execBackgroundColor s
  | .sleep => Sys2Proof.Machine.execSleep s
  | .wake => Sys2Proof.Machine.execWake s
  | .updateAchromaticFrame buffer => Sys2Proof.Machine.execUpdateAchromaticFrame buffer s
  | .updateChromaticFrame buffer => Sys2Proof.Machine.execUpdateChromaticFrame buffer s

end Sys2Proof.Machine
end

