-- ==== Sys2Proof/Machine/Port.lean ====
section
/-! DEFINITION. The request port: which request the next step accepts (10_state.md R33, R35; 60_exceptions.md R207). -/

namespace Sys2Proof.Machine

/-- What the request port does next. -/
inductive Acceptance where
  /-- Nothing is accepted: no request is presented, or the block is busy. -/
  | idle
  /-- A request the decoder turns away is answered `REJECTED`; this is the state after. -/
  | turnedAway (t : State)
  /-- A request is accepted: run the instruction in this state. -/
  | run (i : Instr) (t : State)
  /-- The machine goes no further. -/
  | refused (r : Refusal)
deriving DecidableEq, Repr

/-- Accept the oldest presented request, if the block is not busy (10_state.md R35). The decoder's tests come before
everything else (60_exceptions.md R207); with nothing presented the block does nothing (70_reset_and_hazards.md R223, log
14). -/
def State.acceptance (s : State) : Acceptance :=
  if s.cfg.wellFormed then
    if s.busy then .idle
    else
      match s.requests with
      | [] => .idle
      | r :: rest =>
        match decodeRequest r with
        | .ok i => .run i (s.accept rest)
        | .error _ => .turnedAway (s.accept rest).reject
  else .refused .illFormedConfiguration

/-- The state in which `r` is the request the port accepts next: presented before every other, with no operation in flight
(log 3). -/
def State.present (s : State) (r : Request) : State := { s with requests := r :: s.requests, busy := false }

end Sys2Proof.Machine
end

