-- ==== Sys2Proof/Machine/Step.lean ====
section
/-! DEFINITION. One step: the request port accepts the oldest presented request and the block runs it to its outcome
(20_memory.md R63, log 6). -/

namespace Sys2Proof.Machine

/-- One step of the block. -/
def step (s : State) : Host.Outcome State Fault Refusal :=
  match s.acceptance with
  | .idle => .next s
  | .turnedAway t => .next t
  | .run i t => exec i t
  | .refused r => .refused r

/-- `s` with the request of bits `w` presented, so that the next step accepts exactly it (log 3). -/
def State.withFetchWord (s : State) (nbits w : Nat) : State := s.present (requestOfBits nbits w)

end Sys2Proof.Machine
end

