-- ==== Sys2Proof/Machine/Wire.lean ====
section
/-! DEFINITION. What the wires and the panel see of a trace: the serial bits of a transfer (20_memory.md R58,
30_encoding.md R73), the bytes sent under a level of the select line (42_bus_transport.md R151), what a transfer may have
delivered (60_exceptions.md R204), the transitions of the reset line (43_reset_timer.md R174) and the least time a trace
took (70_reset_and_hazards.md R233). Nothing here is state of the block. -/

namespace Sys2Proof.Machine

/-- The bits of a byte in the order they are sent: most significant first (20_memory.md R58). -/
def byteBits (b : Byte) : List Bool := (List.range 8).map fun k => b.getLsbD (7 - k)

/-- The bits of a transfer in the order they are sent: first byte first (20_memory.md R58). -/
def wireBits (bs : List Byte) : List Bool := bs.flatMap byteBits

/-- The levels of `SCLK` and `SDO` at one moment (30_encoding.md R70). -/
structure Sample where
  sclk : Level
  sdo : Bool
deriving DecidableEq, Repr

/-- One bit on the wires: the block puts it on `SDO` while `SCLK` idles low, then raises `SCLK` (30_encoding.md R73, log
12). -/
def bitSamples (bit : Bool) : List Sample := [⟨.low, bit⟩, ⟨.high, bit⟩]

/-- The levels of the two wires while a transfer is sent (30_encoding.md R73, log 12). -/
def wireSamples (bs : List Byte) : List Sample := (wireBits bs).flatMap bitSamples

/-- The bits a panel captures: `SDO` at each rising edge of `SCLK` (30_encoding.md R73). -/
def capturedBits : Level → List Sample → List Bool
  | _, [] => []
  | before, x :: xs =>
    if before = .low ∧ x.sclk = .high then x.sdo :: capturedBits x.sclk xs else capturedBits x.sclk xs

/-- The bytes of the transfers answered `ok` while the select line is at `v`, where it starts at `l` (42_bus_transport.md
R151). -/
def bytesUnder (v : Level) : Line → List Event → List Byte
  | _, [] => []
  | _, .dc w :: es => bytesUnder v (.driven w) es
  | l, .rst _ :: es => bytesUnder v l es
  | l, .delay _ :: es => bytesUnder v l es
  | l, .xfer bs .ok :: es => (if l = .driven v then bs else []) ++ bytesUnder v l es
  | l, .xfer _ .err :: es => bytesUnder v l es

/-- The panel may have received `got` by an event: all of a transfer answered `ok`, any prefix of one answered `err`
(42_bus_transport.md R142, 60_exceptions.md R204, log 11). -/
def mayDeliver (e : Event) (got : List Byte) : Bool :=
  match e with
  | .xfer bs .ok => got == bs
  | .xfer bs .err => got.isPrefixOf bs
  | .dc _ => got == []
  | .rst _ => got == []
  | .delay _ => got == []

/-- How often the reset line changes level, where it starts at `l`; a drive of a line the block has not driven before is
no change of a known level (43_reset_timer.md R174, 90_conflicts.md C6). -/
def rstTransitions : Line → List Event → Nat
  | _, [] => 0
  | l, .rst v :: es => (if l = .undriven ∨ l = .driven v then 0 else 1) + rstTransitions (.driven v) es
  | l, .dc _ :: es => rstTransitions l es
  | l, .xfer _ _ :: es => rstTransitions l es
  | l, .delay _ :: es => rstTransitions l es

/-- The least number of milliseconds a trace took (70_reset_and_hazards.md R233). -/
def elapsedMs : List Event → Nat
  | [] => 0
  | .delay n :: es => n + elapsedMs es
  | .dc _ :: es => elapsedMs es
  | .rst _ :: es => elapsedMs es
  | .xfer _ _ :: es => elapsedMs es

end Sys2Proof.Machine
end

