-- ==== Sys2Proof/Safety.lean ====
section
/-! DEFINITION. What counts as a sound state and a safe run, in the terms the statements use. -/

namespace Sys2Proof.Machine

/-- The select line as a trace leaves it, where it starts at `l` (10_state.md R29). -/
def dcAfter : Line → List Event → Line
  | l, [] => l
  | _, .dc v :: es => dcAfter (.driven v) es
  | l, .rst _ :: es => dcAfter l es
  | l, .xfer _ _ :: es => dcAfter l es
  | l, .delay _ :: es => dcAfter l es

/-- The reset line as a trace leaves it, where it starts at `l` (10_state.md R30). -/
def rstAfter : Line → List Event → Line
  | l, [] => l
  | _, .rst v :: es => rstAfter (.driven v) es
  | l, .dc _ :: es => rstAfter l es
  | l, .xfer _ _ :: es => rstAfter l es
  | l, .delay _ :: es => rstAfter l es

/-- No transfer of a trace is made before the select line is driven, where the line starts at `l`: every `XFER` has a `DC`
event before it (42_bus_transport.md R141). -/
def selectFirst : Line → List Event → Bool
  | _, [] => true
  | _, .dc v :: es => selectFirst (.driven v) es
  | l, .rst _ :: es => selectFirst l es
  | l, .xfer _ _ :: es => decide (l ≠ .undriven) && selectFirst l es
  | l, .delay _ :: es => selectFirst l es

/-- How many transfers a trace holds. -/
def transferCount : List Event → Nat
  | [] => 0
  | .xfer _ _ :: es => 1 + transferCount es
  | .dc _ :: es => transferCount es
  | .rst _ :: es => transferCount es
  | .delay _ :: es => transferCount es

/-- The invariant of the block between two requests. -/
structure Invariant (s : State) : Prop where
  /-- The configuration is well formed (00_scope.md R10). -/
  config : s.cfg.wellFormed = true
  /-- The framebuffer keeps its canonical form, with no cell outside `LEN` bytes (41_pixelbuffer.md R130, log 7). -/
  framebuffer : Memory.wf s.cfg.resetByte s.cfg.len s.fb
  /-- The background is a color of the buffer's depth (10_state.md R25, R31). -/
  background : s.cfg.layout.holds s.background = true
  /-- No operation is in flight (10_state.md R35). -/
  idle : s.busy = false
  /-- `DC` is as the trace last drove it (10_state.md R29, R40). -/
  selectLine : s.dc = dcAfter .undriven s.trace
  /-- `RST` is as the trace last drove it (10_state.md R30, R40). -/
  resetLine : s.rst = rstAfter .undriven s.trace
  /-- The panel's reset is never left asserted between requests (43_reset_timer.md R172). -/
  resetReleased : s.rst ≠ .driven .low
  /-- A session exists only after a reset pulse (44_session.md R182). -/
  sessionReset : s.session ≠ .uninitialized → s.rst = .driven .high
  /-- Every transfer was made under a driven select line (42_bus_transport.md R141). -/
  selected : selectFirst .undriven s.trace = true
  /-- `transfers` counts the transfers of the trace (log 2). -/
  counted : s.transfers = transferCount s.trace

/-- A run of `k` steps that ends in a next state: no fault, no refusal. -/
def SafeRun (k : Nat) (s : State) : Prop := ∃ t, Sys2Proof.core.run k s = .next t

/-- An operation that sends a frame or refreshes the panel (44_session.md section 3). -/
def isFrameOperation : Instr → Bool
  | .updateFrame _ => true
  | .displayFrame => true
  | .updateAndDisplayFrame _ => true
  | .clearFrame => true
  | .updateAchromaticFrame _ => true
  | .updateChromaticFrame _ => true
  | .resolve _ _ => false
  | .setPixel _ _ _ => false
  | .fill _ => false
  | .setRotation _ => false
  | .getRotation => false
  | .rawBytes => false
  | .sendCommand _ => false
  | .sendData _ => false
  | .sendDataVerbatim _ => false
  | .sendCommandWithData _ _ => false
  | .repeatByte _ _ => false
  | .reset _ => false
  | .new => false
  | .setBackgroundColor _ => false
  | .backgroundColor => false
  | .sleep => false
  | .wake => false

/-- The caller's obligation of the two-plane pair: every UPDATE_CHROMATIC_FRAME comes after an UPDATE_ACHROMATIC_FRAME with
no other frame operation between them (44_session.md R192). `achromatic` says that one is open. The block does not check
it (log 19). -/
def planesOrdered : Bool → List Instr → Bool
  | _, [] => true
  | _, .updateAchromaticFrame _ :: is => planesOrdered true is
  | achromatic, .updateChromaticFrame _ :: is => achromatic && planesOrdered false is
  | achromatic, i :: is => planesOrdered (achromatic && !isFrameOperation i) is

end Sys2Proof.Machine
end

