-- ==== Sys2Proof/Certificates/Slice0/Obligations.lean ====
section
/-! DEFINITION. The statements about the model, after the numbered rules of the spec. The small definitions that open the
file are the words the statements share. -/

namespace Sys2Proof.Claims

open Sys2Proof.Machine

/-- `s` with an outcome returned to the caller (30_encoding.md R82, 10_state.md R35). -/
def done (s : State) (status : Status) (result : Result) : State :=
  { s with busy := false, response := some ⟨status, result⟩ }

/-- The next `n` transfers are answered `ok`. -/
def allOk (s : State) (n : Nat) : Prop := ∀ k < n, s.answerAt k = .ok

/-- The first failing transfer is the one after `n` good ones. -/
def failsAfter (s : State) (n : Nat) : Prop := allOk s n ∧ s.answerAt n = .err

/-- `s` after the wire events `evs`: the lines as last driven, the events recorded, one platform answer used for each
transfer. -/
def ran (s : State) (evs : List Event) : State :=
  { s with
    dc := dcAfter s.dc evs
    rst := rstAfter s.rst evs
    trace := s.trace ++ evs
    answers := s.answers.drop (transferCount evs)
    transfers := s.transfers + transferCount evs }

/-- What an operation does whose wire events are `plan` where no transfer fails, and after which `SESSION` is `after`:
with all transfers `ok` it leaves exactly `plan` and returns `OK`; at the first failing transfer it leaves the events
before it and the failed one, nothing else, and returns `BUS_ERROR`. Everything not named keeps its value. -/
def CarriesOut (i : Instr) (s : State) (plan : List Event) (after : Session) : Prop :=
  (allOk s (transferCount plan) →
    exec i s = .next (done { ran s plan with session := after } .ok .nothing)) ∧
  ∀ pre bs post, plan = pre ++ .xfer bs .ok :: post → failsAfter s (transferCount pre) →
    exec i s = .next (done (ran s (pre ++ [.xfer bs .err])) .busError .nothing)

/-- One transfer for each list, all answered `ok`. -/
def transfers (chunks : List (List Byte)) : List Event := chunks.map fun c => .xfer c .ok

/-- The events of SEND_COMMAND (42_bus_transport.md R143). -/
def commandEvents (opcode : Byte) : List Event := [.dc .low, .xfer [opcode] .ok]

/-- The events of SEND_DATA (42_bus_transport.md R144). -/
def dataEvents (c : Config) (bytes : List Byte) : List Event :=
  .dc .high :: transfers (splitBytes c.chunkLimit bytes)

/-- The events of RESET (43_reset_timer.md R171). -/
def resetEvents (durationLowMs : Nat) : List Event :=
  [.rst .high, .delay 10, .rst .low, .delay durationLowMs, .rst .high, .delay 250]

/-- The events of `RunSeq` (44_session.md R180). -/
def sequenceEvents (c : Config) (seq : List ProfileCommand) : List Event :=
  seq.flatMap fun p =>
    if p.payload = [] then commandEvents p.opcode else commandEvents p.opcode ++ dataEvents c p.payload

/-- The status of the last response. -/
def statusIs (s : State) (status : Status) : Prop := ∃ r, s.response = some ⟨status, r⟩

/-- No event is a failed transfer. -/
def noFailure (evs : List Event) : Prop := ∀ e ∈ evs, ∀ bs, e ≠ .xfer bs .err

/-- The bytes of the good transfers, in order. -/
def goodBytes (evs : List Event) : List Byte :=
  evs.flatMap fun e => match e with
    | .xfer bs .ok => bs
    | .xfer _ .err => []
    | .dc _ => []
    | .rst _ => []
    | .delay _ => []

/-- `nx`, `ny` are the device coordinates of `x`, `y` (the table of 40_resolver.md R101). -/
def deviceCoordinates (c : Config) (rot : Rotation) (x y nx ny : Int) : Prop :=
  match rot with
  | .rotate0 => nx = x ∧ ny = y
  | .rotate90 => nx = c.width - 1 - y ∧ ny = x
  | .rotate180 => nx = c.width - 1 - x ∧ ny = c.height - 1 - y
  | .rotate270 => nx = y ∧ ny = c.height - 1 - x

/-- The point is inside the logical area (40_resolver.md R102). -/
def insideArea (c : Config) (rot : Rotation) (x y : Int) : Prop :=
  match rot with
  | .rotate0 => 0 ≤ x ∧ x < c.width ∧ 0 ≤ y ∧ y < c.height
  | .rotate90 => 0 ≤ x ∧ x < c.height ∧ 0 ≤ y ∧ y < c.width
  | .rotate180 => 0 ≤ x ∧ x < c.width ∧ 0 ≤ y ∧ y < c.height
  | .rotate270 => 0 ≤ x ∧ x < c.height ∧ 0 ≤ y ∧ y < c.width

/-- The pair of a device point (40_resolver.md R103 to R105). -/
def pairOf (c : Config) (nx ny : Nat) : Resolved :=
  match c.layout with
  | .l1 => ⟨ceilDiv c.width 8 * ny + nx / 8, BitVec.ofNat 8 (2 ^ (nx % 8))⟩
  | .x2 => ⟨nx / 4 + c.width / 4 * ny, BitVec.ofNat 8 (0xC0 / 2 ^ (nx % 4 * 2))⟩
  | .y2 => ⟨c.width * 2 * (ny / 8) + nx * 2, BitVec.ofNat 8 (2 ^ (ny % 8))⟩

/-- A state whose framebuffer can be written: the configuration is well formed and the contents are canonical. -/
def sound (s : State) : Prop := s.cfg.wellFormed = true ∧ Memory.wf s.cfg.resetByte s.cfg.len s.fb

/-- The operation numbers of 30_encoding.md R80, by what they need. -/
def operationNumbers : List Byte :=
  [0x00, 0x01, 0x02, 0x03, 0x04, 0x05, 0x10, 0x11, 0x12, 0x13, 0x14, 0x15,
   0x20, 0x21, 0x22, 0x23, 0x24, 0x25, 0x26, 0x27, 0x28, 0x29, 0x2A]
def zeroImmediateNumbers : List Byte :=
  [0x00, 0x04, 0x05, 0x11, 0x12, 0x15, 0x20, 0x21, 0x22, 0x23, 0x24, 0x26, 0x27, 0x28, 0x29, 0x2A]
def colorNumbers : List Byte := [0x01, 0x02, 0x25]
def frameNumbers : List Byte := [0x21, 0x23, 0x29, 0x2A]
def readyNumbers : List Byte := [0x21, 0x22, 0x23, 0x24, 0x27, 0x29, 0x2A]

/-- The request is illegal in this state: the seven cases of 30_encoding.md R90, in its order. -/
def illegal (s : State) (r : Request) : Prop :=
  ∃ h ws, r.words = h :: ws ∧
    (headerOp h ∉ operationNumbers
    ∨ headerZ h ≠ 0
    ∨ (headerOp h ∈ zeroImmediateNumbers ∧ headerA h ≠ 0)
    ∨ (headerOp h = 0x03 ∧ 4 ≤ (headerA h).toNat)
    ∨ (headerOp h ∈ colorNumbers ∧ 2 ^ s.cfg.layout.bitDepth ≤ (headerA h).toNat)
    ∨ (headerOp h = 0x12 ∧ ∃ n limit, ws = [n] ∧ s.cfg.chunkLimit = some limit ∧ limit < n.toNat)
    ∨ (headerOp h = 0x20 ∧ s.session ≠ .uninitialized)
    ∨ (headerOp h = 0x28 ∧ s.session ≠ .sleeping)
    ∨ (headerOp h ∈ readyNumbers ∧ s.session ≠ .ready)
    ∨ ((headerOp h = 0x25 ∨ headerOp h = 0x26) ∧ s.session = .uninitialized)
    ∨ ((headerOp h = 0x29 ∨ headerOp h = 0x2A) ∧ s.cfg.twoPlane = false)
    ∨ (headerOp h ∈ frameNumbers ∧ ∃ n, ws = [n] ∧ n.toNat ≠ s.cfg.len))

/-- The words and the payload fit the format of the operation (30_encoding.md R76). -/
def framed (r : Request) : Prop :=
  ∃ h ws, r.words = h :: ws ∧
    ((headerOp h ∈ ([0x00, 0x01] : List Byte) ∧ ws.length = 2 ∧ r.payload = [])
    ∨ (headerOp h ∈ ([0x14, 0x15] : List Byte) ∧ ws.length = 1 ∧ r.payload = [])
    ∨ (headerOp h ∈ ([0x11, 0x12, 0x13, 0x21, 0x23, 0x29, 0x2A] : List Byte) ∧
        ∃ n : Word, ws = [n] ∧ r.payload.length = n.toNat)
    ∨ (headerOp h ∈ ([0x02, 0x03, 0x04, 0x05, 0x10, 0x20, 0x22, 0x24, 0x25, 0x26, 0x27, 0x28] : List Byte) ∧
        ws = [] ∧ r.payload = []))

/-- The five send operations of 42_bus_transport.md. -/
def isSend : Instr → Prop
  | .sendCommand _ => True
  | .sendData _ => True
  | .sendDataVerbatim _ => True
  | .sendCommandWithData _ _ => True
  | .repeatByte _ _ => True
  | _ => False

/-- The session operations that send (44_session.md). -/
def isSessionSend : Instr → Prop
  | .new => True
  | .wake => True
  | .updateFrame _ => True
  | .displayFrame => True
  | .updateAndDisplayFrame _ => True
  | .clearFrame => True
  | .sleep => True
  | .updateAchromaticFrame _ => True
  | .updateChromaticFrame _ => True
  | _ => False

/-- The bytes a send operation means for the command phase and for the data phase (42_bus_transport.md R151). -/
def commandBytes : Instr → List Byte
  | .sendCommand opcode => [opcode]
  | .sendCommandWithData opcode _ => [opcode]
  | _ => []
def dataBytes : Instr → List Byte
  | .sendData bytes => bytes
  | .sendDataVerbatim bytes => bytes
  | .sendCommandWithData _ bytes => bytes
  | .repeatByte value count => List.replicate count value
  | _ => []

/-- A legal request for an operation that can never fail (60_exceptions.md R202). -/
def neverFails (s : State) : Instr → Prop
  | .resolve _ _ => True
  | .setPixel _ _ color => color.toNat < 2 ^ s.cfg.layout.bitDepth
  | .fill color => color.toNat < 2 ^ s.cfg.layout.bitDepth
  | .setRotation _ => True
  | .getRotation => True
  | .rawBytes => True
  | .reset _ => True
  | .setBackgroundColor color =>
    color.toNat < 2 ^ s.cfg.layout.bitDepth ∧ (s.session = .ready ∨ s.session = .sleeping)
  | .backgroundColor => s.session = .ready ∨ s.session = .sleeping
  | _ => False

/-- The 256 ways to give four colors a 2-bit pattern. -/
def allPatterns : List Gray2Pattern :=
  let twoBits : List (BitVec 2) := [0, 1, 2, 3]
  twoBits.flatMap fun a => twoBits.flatMap fun b => twoBits.flatMap fun c => twoBits.map fun d => ⟨a, b, c, d⟩

end Sys2Proof.Claims

open Sys2Proof Sys2Proof.Machine Sys2Proof.Claims

/-! ### Encoding and the request port -/

/-- Decoding the request that encodes a well-formed instruction gives the instruction, for every instruction and every
operand (30_encoding.md R75 to R81). -/
def Obligations.DecodeOfEncodedInstruction : Prop :=
  ∀ i : Instr, i.wellFormed = true → decodeRequest (encode i) = .ok i

/-- A request that decodes is the encoding of what it decodes to, and that is well formed: no bit of a request is
ignored (30_encoding.md R75 to R81). -/
def Obligations.DecodedRequestIsItsEncoding : Prop :=
  ∀ (r : Request) (i : Instr), decodeRequest r = .ok i → i.wellFormed = true ∧ encode i = r

/-- The worked encodings of 30_encoding.md R94. -/
def Obligations.WorkedEncodings : Prop :=
  encode (.setPixel 0 0 0) = ⟨[0x01000000, 0x00000000, 0x00000000], []⟩ ∧
  encode (.setPixel (-1) 5 1) = ⟨[0x01010000, 0xFFFFFFFF, 0x00000005], []⟩ ∧
  encode (.setRotation .rotate270) = ⟨[0x03030000], []⟩ ∧
  encode (.sendCommand 0x24) = ⟨[0x10240000], []⟩ ∧
  encode (.sendCommandWithData 0x24 [0xAA, 0x55]) = ⟨[0x13240000, 0x00000002], [0xAA, 0x55]⟩ ∧
  encode (.repeatByte 0xFF 3072) = ⟨[0x14FF0000, 0x00000C00], []⟩ ∧
  encode (.reset 10) = ⟨[0x15000000, 0x0000000A], []⟩

/-- All 21 rows of 95_test_vectors.md V8, in its order, decode as it lists them. The color tags of the rows that decode
name the colors listed, at either depth; the row "legal, dropped" is answered `OK` with nothing changed, and the row
"`REJECTED` on 1 bpp" is answered `REJECTED` there. -/
def Obligations.ListedWordsDecode : Prop :=
  decodeRequest ⟨[0x00000000, 0x00000001, 0x00000003], []⟩ = .ok (.resolve 1 3) ∧
  decodeRequest ⟨[0x00010000], []⟩ = .error .nonzeroImmediate ∧
  decodeRequest ⟨[0x01000000, 0x00000000, 0x00000000], []⟩ = .ok (.setPixel 0 0 0) ∧
  decodeRequest ⟨[0x01010000, 0xFFFFFFFF, 0x00000005], []⟩ = .ok (.setPixel (-1) 5 1) ∧
  decodeRequest ⟨[0x01040000], []⟩ = .error .illegalColorTag ∧
  decodeRequest ⟨[0x02030000], []⟩ = .ok (.fill 3) ∧
  decodeRequest ⟨[0x03030000], []⟩ = .ok (.setRotation .rotate270) ∧
  decodeRequest ⟨[0x03040000], []⟩ = .error .illegalRotation ∧
  decodeRequest ⟨[0x04000000], []⟩ = .ok .getRotation ∧
  decodeRequest ⟨[0x05000000], []⟩ = .ok .rawBytes ∧
  decodeRequest ⟨[0x05000001], []⟩ = .error .nonzeroZ ∧
  decodeRequest ⟨[0x06000000], []⟩ = .error .reservedOperation ∧
  decodeRequest ⟨[0x10240000], []⟩ = .ok (.sendCommand 0x24) ∧
  decodeRequest ⟨[0x11000000, 0x00000003], [0x01, 0x02, 0x03]⟩ = .ok (.sendData [0x01, 0x02, 0x03]) ∧
  decodeRequest ⟨[0x13240000, 0x00000002], [0xAA, 0x55]⟩ = .ok (.sendCommandWithData 0x24 [0xAA, 0x55]) ∧
  decodeRequest ⟨[0x14FF0000, 0x00000C00], []⟩ = .ok (.repeatByte 0xFF 3072) ∧
  decodeRequest ⟨[0x15000000, 0x0000000A], []⟩ = .ok (.reset 10) ∧
  decodeRequest ⟨[0x20000000], []⟩ = .ok .new ∧
  decodeRequest ⟨[0x25010000], []⟩ = .ok (.setBackgroundColor 1) ∧
  decodeRequest ⟨[0x2B000000], []⟩ = .error .reservedOperation ∧
  decodeRequest ⟨[0xFF000000], []⟩ = .error .reservedOperation ∧
  Layout.l1.colorOfTag 0 = some (.mono .off) ∧ Layout.l1.colorOfTag 1 = some (.mono .on) ∧
  (∀ l : Layout, l.bitDepth = 2 → l.colorOfTag 0 = some (.gray .black) ∧ l.colorOfTag 1 = some (.gray .white) ∧
    l.colorOfTag 3 = some (.gray .gray2)) ∧
  (∀ s : State, exec (.setPixel (-1) 5 1) s = .next (done s .ok .nothing)) ∧
  ∀ s : State, s.cfg.layout.bitDepth = 1 → exec (.fill 3) s = .next (done s .rejected .nothing)

/-- A step runs the instruction the oldest presented request decodes to, in the state that has accepted it: the
request is no longer presented and the block is busy. A request that does not decode is answered `REJECTED` (a frame
that does not fit its format too: the model's reading, log 4). -/
def Obligations.StepRunsTheDecodedRequest : Prop :=
  ∀ (s : State) (r : Request) (rest : List Request), s.cfg.wellFormed = true → s.busy = false → s.requests = r :: rest →
    (∀ i, decodeRequest r = .ok i → step s = exec i { s with requests := rest, busy := true }) ∧
    (∀ e, decodeRequest r = .error e → step s = .next (done { s with requests := rest } .rejected .nothing))

/-- With no request presented a step changes nothing (70_reset_and_hazards.md R223; that it is a step at all is the
model's choice, log 14). -/
def Obligations.NothingPresentedNothingDone : Prop :=
  ∀ s : State, s.cfg.wellFormed = true → s.requests = [] → step s = .next s

/-- The block accepts nothing while it is busy, is busy from the acceptance of a request, and is not busy once an
operation has returned its outcome (10_state.md R35). The spec says that nothing is accepted while busy; that a step of
a busy block, a state no run reaches, is a step that leaves the state as it is, is the model's choice (log 6, log 14). -/
def Obligations.BusyFromAcceptanceToOutcome : Prop :=
  (∀ s : State, s.cfg.wellFormed = true → s.busy = true → step s = .next s) ∧
  (∀ (s : State) (i : Instr) (t : State), s.acceptance = .run i t → s.busy = false ∧ t.busy = true) ∧
  ∀ (i : Instr) (s t : State), exec i s = .next t → t.busy = false ∧ t.response ≠ none

/-- An illegal request is answered `REJECTED` with no change to any state and no wire event, in each of the seven
cases of 30_encoding.md R90. -/
def Obligations.IllegalRequestsAreRejected : Prop :=
  ∀ (s : State) (r : Request) (rest : List Request), s.cfg.wellFormed = true → s.busy = false →
    s.requests = r :: rest → illegal s r →
    step s = .next (done { s with requests := rest } .rejected .nothing)

/-- A request that fits its format and is illegal in none of the seven cases runs, and is not answered `REJECTED`. That
it always runs to an outcome rests on the model's choice of a platform that answers every transfer (log 2). -/
def Obligations.LegalRequestsAreNotRejected : Prop :=
  ∀ (s : State) (r : Request) (rest : List Request), Invariant s → s.requests = r :: rest → framed r → ¬ illegal s r →
    ∃ t, step s = .next t ∧ ¬ statusIs t .rejected

/-- A configuration that breaks one of the geometry constraints is refused: no block is constructed with it, and a
state that carries it goes no further (00_scope.md R10). -/
def Obligations.IllFormedConfigurationIsRefused : Prop :=
  ∀ s : State,
    ¬ (1 ≤ s.cfg.width ∧ 1 ≤ s.cfg.height ∧ s.cfg.len < 2 ^ 32 ∧
        ((s.cfg.layout = .x2 ∨ s.cfg.layout = .y2) → s.cfg.width % 8 = 0) ∧
        (s.cfg.layout = .y2 → s.cfg.height % 8 = 0)) →
    construct s.cfg = none ∧ step s = .refused .illFormedConfiguration

/-! ### Construction -/

/-- Construction with a well-formed configuration sets every state element to its value and emits no event; an
ill-formed configuration is refused (70_reset_and_hazards.md R220). -/
def Obligations.ConstructionState : Prop :=
  ∀ c : Config, (c.wellFormed = false → construct c = none) ∧
    (c.wellFormed = true → ∃ s, construct c = some s ∧
      s.cfg = c ∧ (∀ i < c.len, s.byteAt i = c.fillByte c.defaultBackground i) ∧ s.rawBytes.length = c.len ∧
      s.rotation = .rotate0 ∧ s.dc = .undriven ∧ s.rst = .undriven ∧ s.background = c.defaultBackground ∧
      s.session = .uninitialized ∧ s.busy = false ∧ s.trace = [])

/-- Every constructed block meets the invariant, whatever its configuration; the state after reset is one (its
configuration is the model's choice, log 1). -/
def Obligations.InvariantAtConstruction : Prop :=
  (∀ (c : Config) (s : State), construct c = some s → Invariant s) ∧ construct Config.atReset = some State.reset ∧
    Invariant State.reset

/-! ### The resolver -/

/-- The encoding of RESOLVE; RESOLVE answers `none` outside the logical area; inside it answers the pair of the device
point, and the device point lies in the native area (40_resolver.md R101 to R106). Nothing but the response and `BUSY`
changes. -/
def Obligations.ResolveAnswersThePackedDevicePoint : Prop :=
  ∀ (x y : Int) (s : State),
    encode (.resolve x y) = ⟨[headerWord 0x00 0, BitVec.ofInt 32 x, BitVec.ofInt 32 y], []⟩ ∧
    (¬ insideArea s.cfg s.rotation x y → exec (.resolve x y) s = .next (done s .ok (.address none))) ∧
    (insideArea s.cfg s.rotation x y → ∃ nx ny : Nat, deviceCoordinates s.cfg s.rotation x y nx ny ∧
      nx < s.cfg.width ∧ ny < s.cfg.height ∧
      exec (.resolve x y) s = .next (done s .ok (.address (some (pairOf s.cfg nx ny)))))

/-- The two forms of the bounds check agree (40_resolver.md R102). -/
def Obligations.BoundsFormsAgree : Prop :=
  ∀ (c : Config) (rot : Rotation) (x y : Int), (inBounds c rot x y ↔ insideArea c rot x y) ∧
    (insideArea c rot x y ↔ ∀ nx ny : Int, deviceCoordinates c rot x y nx ny →
      0 ≤ x ∧ 0 ≤ y ∧ 0 ≤ nx ∧ nx < c.width ∧ 0 ≤ ny ∧ ny < c.height)

/-- Every resolved index is inside the framebuffer, and so is the second byte of a `Y2` pixel (40_resolver.md R107).
-/
def Obligations.ResolvedIndexIsInRange : Prop :=
  ∀ (c : Config) (rot : Rotation) (x y : Int) (r : Resolved), c.wellFormed = true → resolve c rot x y = some r →
    r.byteIndex < c.len ∧ (c.layout = .y2 → r.byteIndex + 1 < c.len)

/-- Different in-bounds points resolve to different pairs, and there are `W * H` of them (40_resolver.md R108). -/
def Obligations.PixelsDoNotShareFields : Prop :=
  ∀ (c : Config) (rot : Rotation), c.wellFormed = true →
    (∀ (x y x' y' : Int) (r : Resolved), resolve c rot x y = some r → resolve c rot x' y' = some r → x = x' ∧ y = y') ∧
    ((Finset.range (logicalWidth c rot) ×ˢ Finset.range (logicalHeight c rot)).image
      fun p => resolve c rot p.1 p.2).card = c.width * c.height ∧
    ∀ x y : Int, (resolve c rot x y).isSome = true ↔ insideArea c rot x y

/-- Rotating a point and applying the inverse table recovers it (40_resolver.md R109). -/
def Obligations.InverseRotationRecoversThePoint : Prop :=
  ∀ (c : Config) (rot : Rotation) (x y : Int), inBounds c rot x y →
    unrotatePoint c rot (rotatePoint c rot x y).1 (rotatePoint c rot x y).2 = (x, y) ∧
    ∀ nx ny : Int, unrotatePoint c .rotate0 nx ny = (nx, ny) ∧
      unrotatePoint c .rotate90 nx ny = (ny, c.width - 1 - nx) ∧
      unrotatePoint c .rotate180 nx ny = (c.width - 1 - nx, c.height - 1 - ny) ∧
      unrotatePoint c .rotate270 nx ny = (c.height - 1 - ny, nx)

/-! ### The pixel buffer -/

/-- SET_PIXEL in layout `L1` sets the pixel's bit for `On` (tag 1) and clears it for `Off` (tag 0); every other byte
and everything else keeps its value (41_pixelbuffer.md R121). -/
def Obligations.SetPixelOneBit : Prop :=
  ∀ (s : State) (x y : Int) (tag : ColorTag) (nx ny : Nat), sound s → s.cfg.layout = .l1 → (tag = 0 ∨ tag = 1) →
    devicePoint s.cfg s.rotation x y = some (nx, ny) →
    ∃ t, exec (.setPixel x y tag) s = .next t ∧
      (let i := (packPoint s.cfg nx ny).byteIndex
       let m := (packPoint s.cfg nx ny).bitMask
       t.byteAt i = (if tag = 1 then s.byteAt i ||| m else s.byteAt i &&& ~~~m) ∧
       ∀ a, a ≠ i → t.byteAt a = s.byteAt a) ∧
      t = done { s with fb := t.fb } .ok .nothing

/-- SET_PIXEL in layout `X2` writes the color's pattern into the two bits of the pixel's field and leaves the six
other bits of the byte; every other byte and everything else keeps its value (41_pixelbuffer.md R122). -/
def Obligations.SetPixelAlongX : Prop :=
  ∀ (s : State) (x y : Int) (tag : ColorTag) (g : Gray2) (nx ny : Nat), sound s → s.cfg.layout = .x2 →
    s.cfg.layout.colorOfTag tag = some (.gray g) →
    devicePoint s.cfg s.rotation x y = some (nx, ny) →
    ∃ t, exec (.setPixel x y tag) s = .next t ∧
      (let i := (packPoint s.cfg nx ny).byteIndex
       let m := (packPoint s.cfg nx ny).bitMask
       t.byteAt i = (s.byteAt i &&& ~~~m) |||
         (((s.cfg.pat2 g).setWidth 8 <<< (6 - nx % 4 * 2)) &&& m) ∧
       ∀ a, a ≠ i → t.byteAt a = s.byteAt a) ∧
      t = done { s with fb := t.fb } .ok .nothing

/-- SET_PIXEL in layout `Y2` sets or clears the pixel's bit in the two adjacent bytes by the two pattern bits, in the
order `Y2_PLANE_ORDER` gives; every other byte and everything else keeps its value (41_pixelbuffer.md R123). -/
def Obligations.SetPixelInBothPlanes : Prop :=
  ∀ (s : State) (x y : Int) (tag : ColorTag) (g : Gray2) (nx ny : Nat), sound s → s.cfg.layout = .y2 →
    s.cfg.layout.colorOfTag tag = some (.gray g) →
    devicePoint s.cfg s.rotation x y = some (nx, ny) →
    ∃ t, exec (.setPixel x y tag) s = .next t ∧
      (let i := (packPoint s.cfg nx ny).byteIndex
       let m := (packPoint s.cfg nx ny).bitMask
       let p := s.cfg.pat2 g
       let pa := if s.cfg.y2PlaneOrder = .msbFirst then p.getLsbD 1 else p.getLsbD 0
       let pb := if s.cfg.y2PlaneOrder = .msbFirst then p.getLsbD 0 else p.getLsbD 1
       t.byteAt i = (if pa then s.byteAt i ||| m else s.byteAt i &&& ~~~m) ∧
       t.byteAt (i + 1) = (if pb then s.byteAt (i + 1) ||| m else s.byteAt (i + 1) &&& ~~~m) ∧
       ∀ a, a ≠ i → a ≠ i + 1 → t.byteAt a = s.byteAt a) ∧
      t = done { s with fb := t.fb } .ok .nothing

/-- A pixel out of bounds is dropped: status `OK`, nothing changed (41_pixelbuffer.md R124). -/
def Obligations.PixelOutOfBoundsIsDropped : Prop :=
  ∀ (s : State) (x y : Int) (tag : ColorTag), tag.toNat < 2 ^ s.cfg.layout.bitDepth →
    ¬ insideArea s.cfg s.rotation x y →
    exec (.setPixel x y tag) s = .next (done s .ok .nothing)

/-- Write then read back: after SET_PIXEL the pixel's field holds the color's pattern, which names the color, and the
field of every other in-bounds point is unchanged (41_pixelbuffer.md R132). -/
def Obligations.PixelReadsBackAndOthersKeep : Prop :=
  ∀ (s : State) (x y : Int) (tag : ColorTag) (color : ColorValue) (r : Resolved), sound s →
    s.cfg.layout.colorOfTag tag = some color →
    resolve s.cfg s.rotation x y = some r →
    ∃ t, exec (.setPixel x y tag) s = .next t ∧ fieldOf t r = s.cfg.pattern color ∧
      s.cfg.unpattern (fieldOf t r) = some color ∧
      ∀ (x' y' : Int) (r' : Resolved), resolve s.cfg s.rotation x' y' = some r' → (x', y') ≠ (x, y) →
        fieldOf t r' = fieldOf s r'

/-- FILL writes every byte of the framebuffer with `fillbyte`, which is the byte the rule gives for each layout, and
changes nothing else (41_pixelbuffer.md R125, R126). -/
def Obligations.FillWritesEveryByte : Prop :=
  ∀ (s : State) (tag : ColorTag) (color : ColorValue), s.cfg.layout.colorOfTag tag = some color →
    ∃ t, exec (.fill tag) s = .next t ∧ t = done { s with fb := t.fb } .ok .nothing ∧
      (∀ i < s.cfg.len, t.byteAt i = s.cfg.fillByte color i) ∧
      ∀ i : Nat, s.cfg.fillByte color i =
        match s.cfg.layout with
        | .l1 => if color = .mono .on then 0xFF else 0x00
        | .x2 => s.cfg.pattern color ++ s.cfg.pattern color ++ s.cfg.pattern color ++ s.cfg.pattern color
        | .y2 =>
          if (s.cfg.pattern color).getLsbD (if (s.cfg.y2PlaneOrder = .msbFirst) ↔ i % 2 = 0 then 1 else 0)
          then 0xFF else 0x00

/-- A fill is the loop of byte writes of 41_pixelbuffer.md R125, index by index from 0. -/
def Obligations.FillIsTheLoopOfByteWrites : Prop :=
  ∀ (s : State) (f : Nat → Byte), Memory.wf s.cfg.resetByte s.cfg.len s.fb →
    (List.range s.cfg.len).foldlM (fun (t : State) i => t.memWrite i (f i)) s = .ok (s.fillWith f)

/-- After FILL every in-bounds pixel, under every rotation, holds the color (41_pixelbuffer.md R125). -/
def Obligations.FillColorsEveryPixel : Prop :=
  ∀ (s : State) (tag : ColorTag) (color : ColorValue) (rot : Rotation) (x y : Int) (r : Resolved),
    s.cfg.wellFormed = true → s.cfg.layout.colorOfTag tag = some color →
    resolve s.cfg rot x y = some r →
    ∃ t, exec (.fill tag) s = .next t ∧ fieldOf t r = s.cfg.pattern color

/-- SET_ROTATION writes `ROTATION` and leaves every other element, the framebuffer among them; GET_ROTATION answers
the rotation's number and changes nothing (41_pixelbuffer.md R127, R128; 30_encoding.md R78). -/
def Obligations.RotationIsSetAndRead : Prop :=
  encode .getRotation = ⟨[headerWord 0x04 0], []⟩ ∧
  (∀ (rot : Rotation) (s : State), encode (.setRotation rot) = ⟨[headerWord 0x03 rot.number], []⟩ ∧
    exec (.setRotation rot) s = .next (done { s with rotation := rot } .ok .nothing)) ∧
  ∀ s : State, exec .getRotation s = .next (done s .ok (.rotation
    (match s.rotation with
    | .rotate0 => 0
    | .rotate90 => 1
    | .rotate180 => 2
    | .rotate270 => 3)))

/-- RAW_BYTES answers exactly `LEN` bytes, the framebuffer in ascending index, and changes nothing (41_pixelbuffer.md
R129). -/
def Obligations.RawBytesAnswersTheFramebuffer : Prop :=
  encode .rawBytes = ⟨[headerWord 0x05 0], []⟩ ∧
  ∀ s : State, ∃ bs, exec .rawBytes s = .next (done s .ok (.bytes bs)) ∧ bs.length = s.cfg.len ∧
    ∀ i < s.cfg.len, bs[i]? = some (s.byteAt i)

/-- The laws of the Gray2 patterns, that exactly eight pattern functions satisfy them, and the inverse mapping
(10_state.md R27, R28). -/
def Obligations.ColorPatternLaws : Prop :=
  (∀ c : Config, c.wellFormed = true →
    (∀ g g' : Gray2, c.pat2 g = c.pat2 g' → g = g') ∧
    c.pat2 .white = 3 - c.pat2 .black ∧ c.pat2 .gray2 = 3 - c.pat2 .gray1 ∧
    (∀ g : Gray2, c.pat2 g.invert = 3 - c.pat2 g) ∧
    (∀ g : Gray2, c.unpat2 (c.pat2 g) = some g) ∧ ∀ p : BitVec 2, ∃ g, c.unpat2 p = some g ∧ c.pat2 g = p) ∧
  (∀ g : Gray2, g.invert.invert = g) ∧
  (allPatterns.filter Gray2Pattern.lawful).length = 8 ∧
  Gray2Pattern.gray2Ex = ⟨0b00, 0b11, 0b01, 0b10⟩ ∧ Gray2Pattern.gray2Ex.lawful = true ∧
  unpat1 1 = .on ∧ unpat1 0 = .off ∧ pat1 .on = 1 ∧ pat1 .off = 0

/-! ### The bus multiplexer -/

/-- The chunks of a payload: in order they are the payload, none is empty, and under a limit `L` there are `ceil(n /
L)` of them, each of `L` bytes but the last, which has what is left; with no limit each has one byte
(42_bus_transport.md R145). -/
def Obligations.SplitKeepsEveryByte : Prop :=
  ∀ bytes : List Byte,
    (∀ limit : Nat, 1 ≤ limit →
      (splitBytes (some limit) bytes).flatten = bytes ∧
      (splitBytes (some limit) bytes).length = ceilDiv bytes.length limit ∧
      ∀ (k : Nat) (c : List Byte), (splitBytes (some limit) bytes)[k]? = some c →
        c.length = (if k + 1 < ceilDiv bytes.length limit then limit
          else bytes.length - limit * (ceilDiv bytes.length limit - 1)) ∧ 1 ≤ c.length ∧ c.length ≤ limit) ∧
    splitBytes none bytes = bytes.map fun b => [b]

/-- SEND_COMMAND drives `DC` low and makes one transfer of one byte (42_bus_transport.md R143). -/
def Obligations.SendCommandSendsOneByte : Prop :=
  ∀ (opcode : Byte) (s : State), encode (.sendCommand opcode) = ⟨[headerWord 0x10 opcode], []⟩ ∧
    CarriesOut (.sendCommand opcode) s [.dc .low, .xfer [opcode] .ok] s.session

/-- SEND_DATA drives `DC` high and sends the chunks of the payload in order; an empty payload makes no transfer
(42_bus_transport.md R144, R146). -/
def Obligations.SendDataSendsTheChunks : Prop :=
  ∀ (bytes : List Byte) (s : State),
    encode (.sendData bytes) = ⟨[headerWord 0x11 0, BitVec.ofNat 32 bytes.length], bytes⟩ ∧
    CarriesOut (.sendData bytes) s (.dc .high :: transfers (splitBytes s.cfg.chunkLimit bytes)) s.session ∧
    (∀ limit : Option Nat, splitBytes limit [] = []) ∧
    exec (.sendData []) s = .next (done { s with dc := .driven .high, trace := s.trace ++ [.dc .high] } .ok .nothing)

/-- SEND_DATA_VERBATIM makes exactly one transfer under `DC` high, whatever the payload's length; above the platform's
limit it is refused (42_bus_transport.md R147). -/
def Obligations.VerbatimMakesOneTransfer : Prop :=
  ∀ (bytes : List Byte) (s : State),
    encode (.sendDataVerbatim bytes) = ⟨[headerWord 0x12 0, BitVec.ofNat 32 bytes.length], bytes⟩ ∧
    ((∀ limit, s.cfg.chunkLimit = some limit → bytes.length ≤ limit) →
      CarriesOut (.sendDataVerbatim bytes) s [.dc .high, .xfer bytes .ok] s.session) ∧
    ∀ limit, s.cfg.chunkLimit = some limit → limit < bytes.length →
      exec (.sendDataVerbatim bytes) s = .next (done s .rejected .nothing)

/-- SEND_COMMAND_WITH_DATA is the command phase, then the data phase (42_bus_transport.md R148). -/
def Obligations.CommandThenDataPhase : Prop :=
  ∀ (opcode : Byte) (bytes : List Byte) (s : State),
    encode (.sendCommandWithData opcode bytes) = ⟨[headerWord 0x13 opcode, BitVec.ofNat 32 bytes.length], bytes⟩ ∧
    CarriesOut (.sendCommandWithData opcode bytes) s
      (.dc .low :: .xfer [opcode] .ok :: .dc .high :: transfers (splitBytes s.cfg.chunkLimit bytes)) s.session

/-- REPEAT_BYTE drives `DC` high and sends `count` transfers of the byte (42_bus_transport.md R149). -/
def Obligations.RepeatByteSendsCopies : Prop :=
  ∀ (value : Byte) (count : Nat) (s : State),
    encode (.repeatByte value count) = ⟨[headerWord 0x14 value, BitVec.ofNat 32 count], []⟩ ∧
    CarriesOut (.repeatByte value count) s (.dc .high :: List.replicate count (.xfer [value] .ok)) s.session

/-- What a send operation put on the bus: with `OK` exactly its opcode under `DC` low and its payload under `DC` high;
with `BUS_ERROR` a prefix of them, ended by the failed transfer (42_bus_transport.md R151). -/
def Obligations.BytesSentAreThePayload : Prop :=
  ∀ (i : Instr) (s t : State), s.cfg.wellFormed = true → isSend i → exec i s = .next t →
    (statusIs t .ok → ∃ evs, t.trace = s.trace ++ evs ∧ noFailure evs ∧
      bytesUnder .low .undriven evs = commandBytes i ∧ bytesUnder .high .undriven evs = dataBytes i) ∧
    (statusIs t .busError → ∃ evs bs, t.trace = s.trace ++ (evs ++ [.xfer bs .err]) ∧ noFailure evs ∧
      goodBytes evs <+: commandBytes i ++ dataBytes i)

/-- The level of `DC` after a send operation (42_bus_transport.md R152). -/
def Obligations.SelectLineAfterASend : Prop :=
  ∀ s t : State,
    (∀ opcode : Byte, exec (.sendCommand opcode) s = .next t → t.dc = .driven .low) ∧
    (∀ bytes : List Byte, exec (.sendData bytes) s = .next t → t.dc = .driven .high) ∧
    (∀ bytes : List Byte, exec (.sendDataVerbatim bytes) s = .next t → ¬ statusIs t .rejected → t.dc = .driven .high) ∧
    (∀ (value : Byte) (count : Nat), exec (.repeatByte value count) s = .next t → t.dc = .driven .high) ∧
    ∀ (opcode : Byte) (bytes : List Byte), exec (.sendCommandWithData opcode bytes) s = .next t →
      t.dc = .driven (if s.answerAt 0 = .ok then .high else .low)

/-- Every operation drives the select line before its own first transfer (42_bus_transport.md R141, 20_memory.md R64).
-/
def Obligations.SelectLineIsDrivenBeforeEveryTransfer : Prop :=
  ∀ (i : Instr) (s t : State), exec i s = .next t → ∃ evs, t.trace = s.trace ++ evs ∧ selectFirst .undriven evs = true

/-- A panel that samples the data line at the rising edges of the clock captures the bytes of a transfer in order,
each from bit 7 down to bit 0 (20_memory.md R58, 30_encoding.md R73). The first clause speaks of the waveform
`wireSamples`, two samples for each bit, which is the model's choice (log 12, DEDUCED). -/
def Obligations.PanelCapturesBytesMostSignificantBitFirst : Prop :=
  (∀ bs : List Byte, capturedBits .low (wireSamples bs) = wireBits bs) ∧
  (∀ (b : Byte) (bs : List Byte), wireBits (b :: bs) =
    [b.getLsbD 7, b.getLsbD 6, b.getLsbD 5, b.getLsbD 4, b.getLsbD 3, b.getLsbD 2, b.getLsbD 1, b.getLsbD 0]
      ++ wireBits bs) ∧
  ∀ bs bs' : List Byte, wireBits bs = wireBits bs' → bs = bs'

/-! ### The reset pulse -/

/-- RESET leaves exactly the six events of the pulse, `RST` high and `DC` as it was, and always returns `OK`
(43_reset_timer.md R171, R172). -/
def Obligations.ResetPulse : Prop :=
  ∀ (d : Nat) (s : State), encode (.reset d) = ⟨[headerWord 0x15 0, BitVec.ofNat 32 d], []⟩ ∧
    exec (.reset d) s = .next (done
    { s with
      rst := .driven .high
      trace := s.trace ++ [.rst .high, .delay 10, .rst .low, .delay d, .rst .high, .delay 250] } .ok .nothing)

/-- A RESET makes two transitions of a high reset line and three of a low one, and lasts at least `260 + d` ms; a NEW
that is not refused lasts at least `260 + RESET_LOW_MS` ms, also when it fails (43_reset_timer.md R174,
70_reset_and_hazards.md R233). -/
def Obligations.ResetTransitionsAndDuration : Prop :=
  (∀ (d : Nat) (s t : State), exec (.reset d) s = .next t → ∃ evs, t.trace = s.trace ++ evs ∧ elapsedMs evs = 260 + d ∧
    (s.rst = .driven .high → rstTransitions s.rst evs = 2) ∧
    (s.rst = .driven .low → rstTransitions s.rst evs = 3)) ∧
  ∀ s t : State, s.session = .uninitialized → exec .new s = .next t →
    ∃ evs, t.trace = s.trace ++ evs ∧ 260 + s.cfg.resetLowMs ≤ elapsedMs evs

/-- Delays and drives of the reset line come from RESET alone, and from NEW and WAKE, which begin with it: every other
operation emits no `DELAY` and no `RST` event (42_bus_transport.md R150). -/
def Obligations.DelaysComeFromResetAlone : Prop :=
  ∀ (i : Instr) (s t : State), exec i s = .next t → (∀ d : Nat, i ≠ .reset d) → i ≠ .new → i ≠ .wake →
    t.rst = s.rst ∧ ∃ evs, t.trace = s.trace ++ evs ∧ ∀ e ∈ evs, (∀ n, e ≠ .delay n) ∧ ∀ v, e ≠ .rst v

/-! ### Errors -/

/-- An operation returns `BUS_ERROR` exactly when a transfer it made was answered `err`; that failed transfer is then
its last event, the lines keep the levels last driven, nothing else of the state has changed, and the block is not
busy (60_exceptions.md R201, R203). -/
def Obligations.BusErrorAbortsAtTheFailedTransfer : Prop :=
  ∀ (i : Instr) (s t : State), exec i s = .next t →
    (statusIs t .busError → ∃ evs bs, noFailure evs ∧ failsAfter s (transferCount evs) ∧
      t = done (ran s (evs ++ [.xfer bs .err])) .busError .nothing) ∧
    (¬ statusIs t .busError → ∃ evs, t.trace = s.trace ++ evs ∧ noFailure evs ∧ allOk s (transferCount evs))

/-- A legal request for an operation of 60_exceptions.md R202 always returns `OK`. -/
def Obligations.OperationsThatNeverFail : Prop :=
  ∀ (i : Instr) (s : State), sound s → neverFails s i → ∃ t, exec i s = .next t ∧ statusIs t .ok

/-! ### The session -/

/-- NEW: the reset pulse, then the initialisation list, then `SESSION` is `Ready` (44_session.md R182). -/
def Obligations.NewResetsInitialisesAndIsReady : Prop :=
  encode .new = ⟨[headerWord 0x20 0], []⟩ ∧ ∀ s : State, s.session = .uninitialized →
    CarriesOut .new s (resetEvents s.cfg.resetLowMs ++ sequenceEvents s.cfg s.cfg.initSeq) .ready

/-- WAKE: the same body, from `Sleeping` (44_session.md R183). -/
def Obligations.WakeRepeatsResetAndInitialisation : Prop :=
  encode .wake = ⟨[headerWord 0x28 0], []⟩ ∧ ∀ s : State, s.session = .sleeping →
    CarriesOut .wake s (resetEvents s.cfg.resetLowMs ++ sequenceEvents s.cfg s.cfg.initSeq) .ready

/-- UPDATE_FRAME sends the write opcode, then the caller's buffer; a buffer that is not `LEN` bytes long is refused
(44_session.md R184). -/
def Obligations.UpdateFrameSendsTheBuffer : Prop :=
  ∀ (buffer : List Byte) (s : State), s.session = .ready →
    encode (.updateFrame buffer) = ⟨[headerWord 0x21 0, BitVec.ofNat 32 buffer.length], buffer⟩ ∧
    (buffer.length = s.cfg.len →
      CarriesOut (.updateFrame buffer) s
        (commandEvents s.cfg.profileOps.writeOp ++ dataEvents s.cfg buffer) .ready) ∧
    (buffer.length ≠ s.cfg.len → exec (.updateFrame buffer) s = .next (done s .rejected .nothing))

/-- DISPLAY_FRAME sends the refresh list (44_session.md R185). -/
def Obligations.DisplayFrameSendsTheRefreshList : Prop :=
  encode .displayFrame = ⟨[headerWord 0x22 0], []⟩ ∧ ∀ s : State, s.session = .ready →
    CarriesOut .displayFrame s (sequenceEvents s.cfg s.cfg.profileOps.refreshSeq) .ready

/-- UPDATE_AND_DISPLAY_FRAME sends the frame, then the refresh list (44_session.md R186). -/
def Obligations.UpdateAndDisplaySendsBoth : Prop :=
  ∀ (buffer : List Byte) (s : State), s.session = .ready → buffer.length = s.cfg.len →
    encode (.updateAndDisplayFrame buffer) = ⟨[headerWord 0x23 0, BitVec.ofNat 32 buffer.length], buffer⟩ ∧
    CarriesOut (.updateAndDisplayFrame buffer) s
      (commandEvents s.cfg.profileOps.writeOp ++ dataEvents s.cfg buffer
        ++ sequenceEvents s.cfg s.cfg.profileOps.refreshSeq) .ready

/-- UPDATE_AND_DISPLAY_FRAME does what UPDATE_FRAME and then DISPLAY_FRAME do: where the update returns `OK` it ends
as the display does from there, and where the update fails it ends as the update did (44_session.md R186). -/
def Obligations.FusedFrameEqualsThePair : Prop :=
  ∀ (buffer : List Byte) (s u : State), s.session = .ready → buffer.length = s.cfg.len →
    exec (.updateFrame buffer) s = .next u →
    (statusIs u .ok → exec (.updateAndDisplayFrame buffer) s = exec .displayFrame u) ∧
    (statusIs u .busError → exec (.updateAndDisplayFrame buffer) s = .next u)

/-- CLEAR_FRAME sends the write opcode, then `LEN` one-byte transfers of the background's fill bytes (44_session.md
R187). -/
def Obligations.ClearFrameSendsTheBackground : Prop :=
  encode .clearFrame = ⟨[headerWord 0x24 0], []⟩ ∧
  ∀ s : State, s.session = .ready → s.cfg.layout.holds s.background = true →
    CarriesOut .clearFrame s
      (commandEvents s.cfg.profileOps.writeOp
        ++ .dc .high :: (List.range s.cfg.len).map fun i => .xfer [s.cfg.fillByte s.background i] .ok) .ready

/-- The panel receives by CLEAR_FRAME the data bytes UPDATE_FRAME would send for a buffer just filled with the
background, and the framebuffer is left as it is (44_session.md R187). -/
def Obligations.ClearFrameSendsWhatAFilledBufferHolds : Prop :=
  ∀ (s t : State) (tag : ColorTag) (u : State) (bs : List Byte) (v : State), s.session = .ready →
    s.cfg.layout.colorOfTag tag = some s.background →
    exec .clearFrame s = .next t → statusIs t .ok →
    exec (.fill tag) s = .next u → exec .rawBytes u = .next v → v.response = some ⟨.ok, .bytes bs⟩ →
    t.fb = s.fb ∧ ∃ evs, t.trace = s.trace ++ evs ∧ bytesUnder .high .undriven evs = bs

/-- The two background operations: in `Ready` and `Sleeping` SET_BACKGROUND_COLOR writes `BACKGROUND` alone and
BACKGROUND_COLOR answers its tag, both with no wire event (44_session.md R188, R189). -/
def Obligations.BackgroundIsSetAndRead : Prop :=
  encode .backgroundColor = ⟨[headerWord 0x26 0], []⟩ ∧
  (∀ tag : ColorTag, encode (.setBackgroundColor tag) = ⟨[headerWord 0x25 tag], []⟩) ∧
  ∀ s : State, s.session = .ready ∨ s.session = .sleeping →
    (∀ (tag : ColorTag) (color : ColorValue), s.cfg.layout.colorOfTag tag = some color →
      exec (.setBackgroundColor tag) s = .next (done { s with background := color } .ok .nothing)) ∧
    (∀ tag : ColorTag, s.cfg.layout.colorOfTag tag = none →
      exec (.setBackgroundColor tag) s = .next (done s .rejected .nothing)) ∧
    exec .backgroundColor s = .next (done s .ok (.color
      (match s.background with
      | .mono .off => 0
      | .mono .on => 1
      | .gray .black => 0
      | .gray .white => 1
      | .gray .gray1 => 2
      | .gray .gray2 => 3)))

/-- SLEEP sends the sleep list and then `SESSION` is `Sleeping` (44_session.md R190). -/
def Obligations.SleepSendsTheSleepList : Prop :=
  encode .sleep = ⟨[headerWord 0x27 0], []⟩ ∧ ∀ s : State, s.session = .ready →
    CarriesOut .sleep s (sequenceEvents s.cfg s.cfg.profileOps.sleepSeq) .sleeping

/-- The two plane writes send their opcode, then the caller's buffer, and are accepted on a two-plane profile only
(44_session.md R191, R192). The statement is for buffers of `LEN` bytes; that length, and that the order of the two is
not checked, are the spec's own choices (D33, D41). -/
def Obligations.PlaneWritesSendTheBuffer : Prop :=
  ∀ (buffer : List Byte) (s : State), s.session = .ready → buffer.length = s.cfg.len →
    encode (.updateAchromaticFrame buffer) = ⟨[headerWord 0x29 0, BitVec.ofNat 32 buffer.length], buffer⟩ ∧
    encode (.updateChromaticFrame buffer) = ⟨[headerWord 0x2A 0, BitVec.ofNat 32 buffer.length], buffer⟩ ∧
    (∀ ops : PlaneOps, s.cfg.profileOps.planeOps = some ops →
      CarriesOut (.updateAchromaticFrame buffer) s (commandEvents ops.achromaticOp ++ dataEvents s.cfg buffer) .ready ∧
      CarriesOut (.updateChromaticFrame buffer) s (commandEvents ops.chromaticOp ++ dataEvents s.cfg buffer) .ready) ∧
    (s.cfg.profileOps.planeOps = none →
      exec (.updateAchromaticFrame buffer) s = .next (done s .rejected .nothing) ∧
      exec (.updateChromaticFrame buffer) s = .next (done s .rejected .nothing))

/-- `SESSION` moves only as the state machine of 44_session.md R181 says: NEW from `Uninitialized` to `Ready`, WAKE
from `Sleeping` to `Ready`, SLEEP from `Ready` to `Sleeping`, each with status `OK`; nothing else moves it. -/
def Obligations.SessionMovesOnlyByTheTable : Prop :=
  ∀ (i : Instr) (s t : State), exec i s = .next t → t.session ≠ s.session →
    statusIs t .ok ∧
    ((i = .new ∧ s.session = .uninitialized ∧ t.session = .ready) ∨
     (i = .wake ∧ s.session = .sleeping ∧ t.session = .ready) ∨
     (i = .sleep ∧ s.session = .ready ∧ t.session = .sleeping))

/-! ### The whole machine -/

/-- Every operation ends: in a sound state each of the 23 returns an outcome to the caller, whatever its operands and
whatever the platform answers (00_scope.md R15). That the platform answers every transfer is the model's choice (log
2); an operation on a platform that never answers does not end (60_exceptions.md R212). -/
def Obligations.EveryOperationReturnsAnOutcome : Prop :=
  ∀ (i : Instr) (s : State), sound s → ∃ t, exec i s = .next t ∧ t.busy = false ∧
    (statusIs t .ok ∨ statusIs t .busError ∨ statusIs t .rejected)

/-- Who writes what (the table of 10_state.md R20): an operation that is not in an element's column leaves the element
as it was. The wire events of `TRACE` are emitted by the send operations, by RESET and by the session operations made
of them; `BUSY`, written by the request port alone, is the subject of `BusyFromAcceptanceToOutcome`. -/
def Obligations.EachElementHasItsWriters : Prop :=
  ∀ (i : Instr) (s t : State), exec i s = .next t →
    (t.fb ≠ s.fb → (∃ x y c, i = .setPixel x y c) ∨ ∃ c, i = .fill c) ∧
    (t.rotation ≠ s.rotation → ∃ r, i = .setRotation r) ∧
    (t.background ≠ s.background → ∃ c, i = .setBackgroundColor c) ∧
    (t.rst ≠ s.rst → (∃ d, i = .reset d) ∨ i = .new ∨ i = .wake) ∧
    (t.dc ≠ s.dc → isSend i ∨ isSessionSend i) ∧
    (t.session ≠ s.session → i = .new ∨ i = .wake ∨ i = .sleep) ∧
    (t.trace ≠ s.trace → isSend i ∨ isSessionSend i ∨ ∃ d, i = .reset d) ∧
    t.cfg = s.cfg ∧ t.requests = s.requests

/-- Along every step the configuration stays as it was constructed and the trace only grows (00_scope.md R8,
10_state.md R40). -/
def Obligations.ConfigurationIsFixedAndTraceGrows : Prop :=
  ∀ s t : State, step s = .next t → t.cfg = s.cfg ∧ s.trace <+: t.trace

/-- The invariant of the block is kept by every step. -/
def Obligations.StepKeepsTheInvariant : Prop :=
  ∀ s t : State, Invariant s → step s = .next t → Invariant t

/-- From every sound state every run goes on for ever: no fault, no refusal, whatever is presented and whatever the
platform answers. That a block with nothing to accept makes a step, and that the platform answers every transfer, are the model's
choices (log 14, log 2). -/
def Obligations.RunsNeverStop : Prop :=
  ∀ (k : Nat) (s : State), Invariant s → SafeRun k s
end

