-- ==== Sys2Proof/Laws/State.lean ====
section
/-! SUPPORT. One lemma per field per update of the state, so that no later proof unfolds a record update. -/

namespace Sys2Proof.Machine

section
variable (s : State) (e : Event)
@[simp] theorem State.emit_fb : (s.emit e).fb = s.fb := rfl
@[simp] theorem State.emit_rotation : (s.emit e).rotation = s.rotation := rfl
@[simp] theorem State.emit_dc : (s.emit e).dc = s.dc := rfl
@[simp] theorem State.emit_rst : (s.emit e).rst = s.rst := rfl
@[simp] theorem State.emit_background : (s.emit e).background = s.background := rfl
@[simp] theorem State.emit_session : (s.emit e).session = s.session := rfl
@[simp] theorem State.emit_busy : (s.emit e).busy = s.busy := rfl
@[simp] theorem State.emit_trace : (s.emit e).trace = s.trace ++ [e] := rfl
@[simp] theorem State.emit_cfg : (s.emit e).cfg = s.cfg := rfl
@[simp] theorem State.emit_requests : (s.emit e).requests = s.requests := rfl
@[simp] theorem State.emit_response : (s.emit e).response = s.response := rfl
@[simp] theorem State.emit_answers : (s.emit e).answers = s.answers := rfl
@[simp] theorem State.emit_transfers : (s.emit e).transfers = s.transfers := rfl
end

section
variable (s : State) (v : Level)
@[simp] theorem State.setDC_fb : (s.setDC v).fb = s.fb := rfl
@[simp] theorem State.setDC_rotation : (s.setDC v).rotation = s.rotation := rfl
@[simp] theorem State.setDC_dc : (s.setDC v).dc = .driven v := rfl
@[simp] theorem State.setDC_rst : (s.setDC v).rst = s.rst := rfl
@[simp] theorem State.setDC_background : (s.setDC v).background = s.background := rfl
@[simp] theorem State.setDC_session : (s.setDC v).session = s.session := rfl
@[simp] theorem State.setDC_busy : (s.setDC v).busy = s.busy := rfl
@[simp] theorem State.setDC_trace : (s.setDC v).trace = s.trace ++ [.dc v] := rfl
@[simp] theorem State.setDC_cfg : (s.setDC v).cfg = s.cfg := rfl
@[simp] theorem State.setDC_requests : (s.setDC v).requests = s.requests := rfl
@[simp] theorem State.setDC_response : (s.setDC v).response = s.response := rfl
@[simp] theorem State.setDC_answers : (s.setDC v).answers = s.answers := rfl
@[simp] theorem State.setDC_transfers : (s.setDC v).transfers = s.transfers := rfl
end

section
variable (s : State) (v : Level)
@[simp] theorem State.setRST_fb : (s.setRST v).fb = s.fb := rfl
@[simp] theorem State.setRST_rotation : (s.setRST v).rotation = s.rotation := rfl
@[simp] theorem State.setRST_dc : (s.setRST v).dc = s.dc := rfl
@[simp] theorem State.setRST_rst : (s.setRST v).rst = .driven v := rfl
@[simp] theorem State.setRST_background : (s.setRST v).background = s.background := rfl
@[simp] theorem State.setRST_session : (s.setRST v).session = s.session := rfl
@[simp] theorem State.setRST_busy : (s.setRST v).busy = s.busy := rfl
@[simp] theorem State.setRST_trace : (s.setRST v).trace = s.trace ++ [.rst v] := rfl
@[simp] theorem State.setRST_cfg : (s.setRST v).cfg = s.cfg := rfl
@[simp] theorem State.setRST_requests : (s.setRST v).requests = s.requests := rfl
@[simp] theorem State.setRST_response : (s.setRST v).response = s.response := rfl
@[simp] theorem State.setRST_answers : (s.setRST v).answers = s.answers := rfl
@[simp] theorem State.setRST_transfers : (s.setRST v).transfers = s.transfers := rfl
end

section
variable (s : State) (ms : Nat)
@[simp] theorem State.delay_fb : (s.delay ms).fb = s.fb := rfl
@[simp] theorem State.delay_rotation : (s.delay ms).rotation = s.rotation := rfl
@[simp] theorem State.delay_dc : (s.delay ms).dc = s.dc := rfl
@[simp] theorem State.delay_rst : (s.delay ms).rst = s.rst := rfl
@[simp] theorem State.delay_background : (s.delay ms).background = s.background := rfl
@[simp] theorem State.delay_session : (s.delay ms).session = s.session := rfl
@[simp] theorem State.delay_busy : (s.delay ms).busy = s.busy := rfl
@[simp] theorem State.delay_trace : (s.delay ms).trace = s.trace ++ [.delay ms] := rfl
@[simp] theorem State.delay_cfg : (s.delay ms).cfg = s.cfg := rfl
@[simp] theorem State.delay_requests : (s.delay ms).requests = s.requests := rfl
@[simp] theorem State.delay_response : (s.delay ms).response = s.response := rfl
@[simp] theorem State.delay_answers : (s.delay ms).answers = s.answers := rfl
@[simp] theorem State.delay_transfers : (s.delay ms).transfers = s.transfers := rfl
end

section
variable (s : State) (bs : List Byte)
@[simp] theorem State.xfer_fb : (s.xfer bs).1.fb = s.fb := rfl
@[simp] theorem State.xfer_rotation : (s.xfer bs).1.rotation = s.rotation := rfl
@[simp] theorem State.xfer_dc : (s.xfer bs).1.dc = s.dc := rfl
@[simp] theorem State.xfer_rst : (s.xfer bs).1.rst = s.rst := rfl
@[simp] theorem State.xfer_background : (s.xfer bs).1.background = s.background := rfl
@[simp] theorem State.xfer_session : (s.xfer bs).1.session = s.session := rfl
@[simp] theorem State.xfer_busy : (s.xfer bs).1.busy = s.busy := rfl
@[simp] theorem State.xfer_trace : (s.xfer bs).1.trace = s.trace ++ [.xfer bs (s.answerAt 0)] := rfl
@[simp] theorem State.xfer_cfg : (s.xfer bs).1.cfg = s.cfg := rfl
@[simp] theorem State.xfer_requests : (s.xfer bs).1.requests = s.requests := rfl
@[simp] theorem State.xfer_response : (s.xfer bs).1.response = s.response := rfl
@[simp] theorem State.xfer_answers : (s.xfer bs).1.answers = s.answers.tail := rfl
@[simp] theorem State.xfer_transfers : (s.xfer bs).1.transfers = s.transfers + 1 := rfl
end

section
variable (s : State) (f : Nat → Byte)
@[simp] theorem State.fillWith_fb : (s.fillWith f).fb = Memory.fill s.cfg.resetByte s.cfg.len f := rfl
@[simp] theorem State.fillWith_rotation : (s.fillWith f).rotation = s.rotation := rfl
@[simp] theorem State.fillWith_dc : (s.fillWith f).dc = s.dc := rfl
@[simp] theorem State.fillWith_rst : (s.fillWith f).rst = s.rst := rfl
@[simp] theorem State.fillWith_background : (s.fillWith f).background = s.background := rfl
@[simp] theorem State.fillWith_session : (s.fillWith f).session = s.session := rfl
@[simp] theorem State.fillWith_busy : (s.fillWith f).busy = s.busy := rfl
@[simp] theorem State.fillWith_trace : (s.fillWith f).trace = s.trace := rfl
@[simp] theorem State.fillWith_cfg : (s.fillWith f).cfg = s.cfg := rfl
@[simp] theorem State.fillWith_requests : (s.fillWith f).requests = s.requests := rfl
@[simp] theorem State.fillWith_response : (s.fillWith f).response = s.response := rfl
@[simp] theorem State.fillWith_answers : (s.fillWith f).answers = s.answers := rfl
@[simp] theorem State.fillWith_transfers : (s.fillWith f).transfers = s.transfers := rfl
end

section
variable (s : State) (rest : List Request)
@[simp] theorem State.accept_fb : (s.accept rest).fb = s.fb := rfl
@[simp] theorem State.accept_rotation : (s.accept rest).rotation = s.rotation := rfl
@[simp] theorem State.accept_dc : (s.accept rest).dc = s.dc := rfl
@[simp] theorem State.accept_rst : (s.accept rest).rst = s.rst := rfl
@[simp] theorem State.accept_background : (s.accept rest).background = s.background := rfl
@[simp] theorem State.accept_session : (s.accept rest).session = s.session := rfl
@[simp] theorem State.accept_busy : (s.accept rest).busy = true := rfl
@[simp] theorem State.accept_trace : (s.accept rest).trace = s.trace := rfl
@[simp] theorem State.accept_cfg : (s.accept rest).cfg = s.cfg := rfl
@[simp] theorem State.accept_requests : (s.accept rest).requests = rest := rfl
@[simp] theorem State.accept_response : (s.accept rest).response = s.response := rfl
@[simp] theorem State.accept_answers : (s.accept rest).answers = s.answers := rfl
@[simp] theorem State.accept_transfers : (s.accept rest).transfers = s.transfers := rfl
end

section
variable (s : State) (st : Status) (r : Result)
@[simp] theorem State.answer_fb : (s.answer st r).fb = s.fb := rfl
@[simp] theorem State.answer_rotation : (s.answer st r).rotation = s.rotation := rfl
@[simp] theorem State.answer_dc : (s.answer st r).dc = s.dc := rfl
@[simp] theorem State.answer_rst : (s.answer st r).rst = s.rst := rfl
@[simp] theorem State.answer_background : (s.answer st r).background = s.background := rfl
@[simp] theorem State.answer_session : (s.answer st r).session = s.session := rfl
@[simp] theorem State.answer_busy : (s.answer st r).busy = false := rfl
@[simp] theorem State.answer_trace : (s.answer st r).trace = s.trace := rfl
@[simp] theorem State.answer_cfg : (s.answer st r).cfg = s.cfg := rfl
@[simp] theorem State.answer_requests : (s.answer st r).requests = s.requests := rfl
@[simp] theorem State.answer_response : (s.answer st r).response = some ⟨st, r⟩ := rfl
@[simp] theorem State.answer_answers : (s.answer st r).answers = s.answers := rfl
@[simp] theorem State.answer_transfers : (s.answer st r).transfers = s.transfers := rfl
end

section
variable (s : State) (after : Session) (r : Answer)
@[simp] theorem State.conclude_fb : (s.conclude after r).fb = s.fb := by cases r <;> rfl
@[simp] theorem State.conclude_rotation : (s.conclude after r).rotation = s.rotation := by cases r <;> rfl
@[simp] theorem State.conclude_dc : (s.conclude after r).dc = s.dc := by cases r <;> rfl
@[simp] theorem State.conclude_rst : (s.conclude after r).rst = s.rst := by cases r <;> rfl
@[simp] theorem State.conclude_background : (s.conclude after r).background = s.background := by cases r <;> rfl
@[simp] theorem State.conclude_session : (s.conclude after r).session = if r = .ok then after else s.session := by cases r <;> rfl
@[simp] theorem State.conclude_busy : (s.conclude after r).busy = false := by cases r <;> rfl
@[simp] theorem State.conclude_trace : (s.conclude after r).trace = s.trace := by cases r <;> rfl
@[simp] theorem State.conclude_cfg : (s.conclude after r).cfg = s.cfg := by cases r <;> rfl
@[simp] theorem State.conclude_requests : (s.conclude after r).requests = s.requests := by cases r <;> rfl
@[simp] theorem State.conclude_response : (s.conclude after r).response = some ⟨if r = .ok then .ok else .busError, .nothing⟩ := by cases r <;> rfl
@[simp] theorem State.conclude_answers : (s.conclude after r).answers = s.answers := by cases r <;> rfl
@[simp] theorem State.conclude_transfers : (s.conclude after r).transfers = s.transfers := by cases r <;> rfl
end

@[simp] theorem State.xfer_snd (s : State) (bs : List Byte) : (s.xfer bs).2 = s.answerAt 0 := rfl
@[simp] theorem State.succeed_eq (s : State) (r : Result) : s.succeed r = s.answer .ok r := rfl
@[simp] theorem State.reject_eq (s : State) : s.reject = s.answer .rejected .nothing := rfl
@[simp] theorem State.raiseBusError_eq (s : State) : s.raiseBusError = s.answer .busError .nothing := rfl

end Sys2Proof.Machine
end

