-- ==== Sys2Proof/Laws/Acts.lean ====
section
/-! SUPPORT. What performing acts can do, said once: `runActs_cases` (every act performed, or the first failing transfer ends
them), with the state each way leaves written out, and what no act touches. -/

namespace Sys2Proof.Machine

/-- The event an act leaves where its transfer, if it is one, is answered `ok`. -/
def Act.event : Act → Event
  | .setDC v => .dc v
  | .setRST v => .rst v
  | .delay ms => .delay ms
  | .xfer bs => .xfer bs .ok

/-- How many transfers a list of acts makes. -/
def transferActs (acts : List Act) : Nat := transferCount (acts.map Act.event)

/-- `s` after the events `evs`, of which `transferCount evs` are transfers. -/
def State.after (s : State) (evs : List Event) : State :=
  { s with
    dc := dcAfter s.dc evs
    rst := rstAfter s.rst evs
    trace := s.trace ++ evs
    answers := s.answers.drop (transferCount evs)
    transfers := s.transfers + transferCount evs }

@[simp] theorem State.after_nil (s : State) : s.after [] = s := by
  simp [State.after, dcAfter, rstAfter, transferCount]

theorem transferCount_append (a b : List Event) : transferCount (a ++ b) = transferCount a + transferCount b := by
  induction a with
  | nil => simp [transferCount]
  | cons e a ih => cases e <;> simp [transferCount, ih, Nat.add_assoc]

theorem dcAfter_append (l : Line) (a b : List Event) : dcAfter l (a ++ b) = dcAfter (dcAfter l a) b := by
  induction a generalizing l with
  | nil => rfl
  | cons e a ih => cases e <;> simp [dcAfter, ih]

theorem rstAfter_append (l : Line) (a b : List Event) : rstAfter l (a ++ b) = rstAfter (rstAfter l a) b := by
  induction a generalizing l with
  | nil => rfl
  | cons e a ih => cases e <;> simp [rstAfter, ih]

theorem selectFirst_append (l : Line) (a b : List Event) :
    selectFirst l (a ++ b) = (selectFirst l a && selectFirst (dcAfter l a) b) := by
  induction a generalizing l with
  | nil => simp [selectFirst, dcAfter]
  | cons e a ih => cases e <;> simp [selectFirst, dcAfter, ih, Bool.and_assoc]

theorem State.after_append (s : State) (a b : List Event) : s.after (a ++ b) = (s.after a).after b := by
  simp [State.after, dcAfter_append, rstAfter_append, transferCount_append, Nat.add_assoc, List.append_assoc]

theorem State.setDC_eq_after (s : State) (v : Level) : s.setDC v = s.after [.dc v] := by
  simp [State.after, State.setDC, State.emit, dcAfter, rstAfter, transferCount]

theorem State.setRST_eq_after (s : State) (v : Level) : s.setRST v = s.after [.rst v] := by
  simp [State.after, State.setRST, State.emit, dcAfter, rstAfter, transferCount]

theorem State.delay_eq_after (s : State) (ms : Nat) : s.delay ms = s.after [.delay ms] := by
  simp [State.after, State.delay, State.emit, dcAfter, rstAfter, transferCount]

theorem State.xfer_eq_after (s : State) (bs : List Byte) : (s.xfer bs).1 = s.after [.xfer bs (s.answerAt 0)] := by
  simp [State.after, State.xfer, State.emit, dcAfter, rstAfter, transferCount]

theorem State.after_cons (s : State) (e : Event) (evs : List Event) : s.after (e :: evs) = (s.after [e]).after evs :=
  s.after_append [e] evs

theorem transferCount_cons (e : Event) (evs : List Event) :
    transferCount (e :: evs) = transferCount [e] + transferCount evs := transferCount_append [e] evs

theorem State.after_answerAt (s : State) (evs : List Event) (k : Nat) :
    (s.after evs).answerAt k = s.answerAt (transferCount evs + k) := by
  simp only [State.answerAt, State.after, List.getElem?_drop, Nat.add_assoc]

/-- Every transfer of the acts is answered `ok`: all acts are performed. -/
theorem runActs_ok (acts : List Act) (s : State) (h : ∀ k < transferActs acts, s.answerAt k = .ok) :
    runActs acts s = (s.after (acts.map Act.event), .ok) := by
  induction acts generalizing s with
  | nil => simp [runActs]
  | cons a acts ih =>
    have step : ∀ t : State, t = s.after [a.event] → runActs acts t = (s.after ((a :: acts).map Act.event), .ok) := by
      intro t ht
      rw [List.map_cons, State.after_cons, ← ht]
      refine ih t fun k hk => ?_
      rw [ht, State.after_answerAt]
      refine h _ ?_
      simp only [transferActs, List.map_cons] at hk ⊢
      rw [transferCount_cons a.event (acts.map Act.event)]
      omega
    cases a with
    | setDC v => exact step _ (s.setDC_eq_after v)
    | setRST v => exact step _ (s.setRST_eq_after v)
    | delay ms => exact step _ (s.delay_eq_after ms)
    | xfer bs =>
      have h0 : s.answerAt 0 = .ok := h 0 (by simp [transferActs, Act.event, transferCount])
      simp only [runActs, State.xfer_snd, h0]
      exact step _ (by rw [State.xfer_eq_after, h0]; rfl)

/-- The first transfer answered `err` ends the acts: nothing after it is performed. -/
theorem runActs_err (pre : List Act) (bs : List Byte) (post : List Act) (s : State)
    (h : ∀ k < transferActs pre, s.answerAt k = .ok) (he : s.answerAt (transferActs pre) = .err) :
    runActs (pre ++ .xfer bs :: post) s = (s.after (pre.map Act.event ++ [.xfer bs .err]), .err) := by
  induction pre generalizing s with
  | nil =>
    have he0 : s.answerAt 0 = .err := by simpa [transferActs, transferCount] using he
    simp only [List.nil_append, runActs, State.xfer_snd, he0, State.xfer_eq_after, List.map_nil]
  | cons a pre ih =>
    have step : ∀ t : State, t = s.after [a.event] →
        runActs (pre ++ .xfer bs :: post) t = (s.after ((a :: pre).map Act.event ++ [.xfer bs .err]), .err) := by
      intro t ht
      have hc : transferActs (a :: pre) = transferCount [a.event] + transferActs pre := by
        simp only [transferActs, List.map_cons]
        rw [transferCount_cons]
      rw [List.map_cons, List.cons_append, State.after_cons, ← ht]
      refine ih t (fun k hk => ?_) ?_
      · rw [ht, State.after_answerAt]
        exact h _ (by omega)
      · rw [ht, State.after_answerAt, ← hc]
        exact he
    cases a with
    | setDC v => exact step _ (s.setDC_eq_after v)
    | setRST v => exact step _ (s.setRST_eq_after v)
    | delay ms => exact step _ (s.delay_eq_after ms)
    | xfer b =>
      have h0 : s.answerAt 0 = .ok := h 0 (by simp [transferActs, Act.event, transferCount])
      simp only [List.cons_append, runActs, State.xfer_snd, h0]
      exact step _ (by rw [State.xfer_eq_after, h0]; rfl)

/-- All that performing acts can do: every transfer is answered `ok` and all acts are performed, or the acts end at the
first transfer answered `err`. -/
theorem runActs_cases (acts : List Act) (s : State) :
    ((∀ k < transferActs acts, s.answerAt k = .ok) ∧ runActs acts s = (s.after (acts.map Act.event), .ok)) ∨
    ∃ pre bs post, acts = pre ++ .xfer bs :: post ∧ (∀ k < transferActs pre, s.answerAt k = .ok) ∧
      s.answerAt (transferActs pre) = .err ∧
      runActs acts s = (s.after (pre.map Act.event ++ [.xfer bs .err]), .err) := by
  have split : ∀ (acts pre : List Act), (∀ k < transferActs pre, s.answerAt k = .ok) →
      (∀ k < transferActs (pre ++ acts), s.answerAt k = .ok) ∨
      ∃ mid bs post, acts = mid ++ .xfer bs :: post ∧ (∀ k < transferActs (pre ++ mid), s.answerAt k = .ok) ∧
        s.answerAt (transferActs (pre ++ mid)) = .err := by
    intro acts
    induction acts with
    | nil => intro pre h; exact .inl (by simpa using h)
    | cons a acts ih =>
      intro pre h
      have extend : (∀ k < transferActs (pre ++ [a]), s.answerAt k = .ok) →
          (∀ k < transferActs (pre ++ a :: acts), s.answerAt k = .ok) ∨
          ∃ mid bs post, a :: acts = mid ++ .xfer bs :: post ∧ (∀ k < transferActs (pre ++ mid), s.answerAt k = .ok) ∧
            s.answerAt (transferActs (pre ++ mid)) = .err := by
        intro h'
        rcases ih (pre ++ [a]) h' with h1 | ⟨mid, bs, post, h1, h2, h3⟩
        · exact .inl (by simpa using h1)
        · exact .inr ⟨a :: mid, bs, post, by simp [h1], by simpa using h2, by simpa using h3⟩
      have hsum : transferActs (pre ++ [a]) = transferActs pre + transferCount [a.event] := by
        simp [transferActs, transferCount_append]
      cases a with
      | setDC v => exact extend (by rw [hsum]; simpa [Act.event, transferCount] using h)
      | setRST v => exact extend (by rw [hsum]; simpa [Act.event, transferCount] using h)
      | delay ms => exact extend (by rw [hsum]; simpa [Act.event, transferCount] using h)
      | xfer bs =>
        cases hr : s.answerAt (transferActs pre) with
        | ok =>
          refine extend fun k hk => ?_
          rw [hsum] at hk
          simp only [Act.event, transferCount] at hk
          rcases Nat.lt_succ_iff_lt_or_eq.1 hk with hk | hk
          · exact h k hk
          · exact hk ▸ hr
        | err => exact .inr ⟨[], bs, acts, by simp, by simpa using h, by simpa using hr⟩
  rcases split acts [] (by simp [transferActs, transferCount]) with h | ⟨pre, bs, post, rfl, h2, h3⟩
  · exact .inl ⟨by simpa using h, runActs_ok acts s (by simpa using h)⟩
  · simp only [List.nil_append] at h2 h3
    exact .inr ⟨pre, bs, post, rfl, h2, h3, runActs_err pre bs post s h2 h3⟩

/-- All that performing acts can do, by the events they leave: a state after some events, with nothing but the lines, the
trace and the platform's answers touched. -/
theorem runActs_after (acts : List Act) (s : State) : ∃ evs, (runActs acts s).1 = s.after evs := by
  rcases runActs_cases acts s with ⟨-, h⟩ | ⟨pre, bs, post, -, -, -, h⟩
  · exact ⟨_, by rw [h]⟩
  · exact ⟨_, by rw [h]⟩

section
variable (s : State) (evs : List Event)
@[simp] theorem State.after_fb : (s.after evs).fb = s.fb := rfl
@[simp] theorem State.after_rotation : (s.after evs).rotation = s.rotation := rfl
@[simp] theorem State.after_dc : (s.after evs).dc = dcAfter s.dc evs := rfl
@[simp] theorem State.after_rst : (s.after evs).rst = rstAfter s.rst evs := rfl
@[simp] theorem State.after_background : (s.after evs).background = s.background := rfl
@[simp] theorem State.after_session : (s.after evs).session = s.session := rfl
@[simp] theorem State.after_busy : (s.after evs).busy = s.busy := rfl
@[simp] theorem State.after_trace : (s.after evs).trace = s.trace ++ evs := rfl
@[simp] theorem State.after_cfg : (s.after evs).cfg = s.cfg := rfl
@[simp] theorem State.after_requests : (s.after evs).requests = s.requests := rfl
@[simp] theorem State.after_response : (s.after evs).response = s.response := rfl
end

/-- An operation made of acts, all transfers answered `ok`. -/
theorem State.perform_ok (s : State) (acts : List Act) (after : Session)
    (h : ∀ k < transferActs acts, s.answerAt k = .ok) :
    s.perform acts after = ({ s.after (acts.map Act.event) with session := after }).answer .ok .nothing := by
  simp [State.perform, runActs_ok acts s h, State.conclude]

/-- An operation made of acts, ended by its first failing transfer: the exception is taken (60_exceptions.md R203). -/
theorem State.perform_err (s : State) (pre : List Act) (bs : List Byte) (post : List Act) (after : Session)
    (h : ∀ k < transferActs pre, s.answerAt k = .ok) (he : s.answerAt (transferActs pre) = .err) :
    s.perform (pre ++ .xfer bs :: post) after =
      (s.after (pre.map Act.event ++ [.xfer bs .err])).answer .busError .nothing := by
  simp [State.perform, runActs_err pre bs post s h he, State.conclude]

/-- All that an operation made of acts can do. -/
theorem State.perform_cases (s : State) (acts : List Act) (after : Session) :
    ((∀ k < transferActs acts, s.answerAt k = .ok) ∧
      s.perform acts after = ({ s.after (acts.map Act.event) with session := after }).answer .ok .nothing) ∨
    ∃ pre bs post, acts = pre ++ .xfer bs :: post ∧ (∀ k < transferActs pre, s.answerAt k = .ok) ∧
      s.answerAt (transferActs pre) = .err ∧
      s.perform acts after = (s.after (pre.map Act.event ++ [.xfer bs .err])).answer .busError .nothing := by
  rcases runActs_cases acts s with ⟨h, -⟩ | ⟨pre, bs, post, rfl, h1, h2, -⟩
  · exact .inl ⟨h, s.perform_ok acts after h⟩
  · exact .inr ⟨pre, bs, post, rfl, h1, h2, s.perform_err pre bs post after h1 h2⟩

end Sys2Proof.Machine
end

