-- ==== Sys2Proof/Laws/Memory.lean ====
section
/-! SUPPORT. The laws of the framebuffer's contents: what a read gives after a write or a fill, that both keep the canonical
form, and that two canonical contents that read alike are equal. -/

namespace Sys2Proof.Machine

variable {d : Nat → Byte} {len : Nat}

/-- Indices strictly rising. -/
def Memory.Rising (m : Memory) : Prop := (m.map Prod.fst).Pairwise (· < ·)

theorem Memory.rising_cons {b : Nat} {w : Byte} {m : Memory} :
    Memory.Rising ((b, w) :: m) ↔ (∀ c ∈ m, b < c.1) ∧ Memory.Rising m := by
  simp [Memory.Rising, List.pairwise_cons]

theorem Memory.read_below {m : Memory} {a : Nat} (h : ∀ c ∈ m, a < c.1) : Memory.read d m a = d a := by
  induction m with
  | nil => rfl
  | cons c m ih =>
    obtain ⟨b, w⟩ := c
    have hb : a < b := h (b, w) (by simp)
    simp only [Memory.read, Nat.ne_of_lt hb, if_false]
    exact ih fun c hc => h c (by simp [hc])

/-- A read after a write: the value written at its index, what stood there before at every other. -/
theorem Memory.read_write {m : Memory} (h : Memory.Rising m) (a : Nat) (v : Byte) (i : Nat) :
    Memory.read d (Memory.write d m a v) i = if i = a then v else Memory.read d m i := by
  induction m with
  | nil =>
    by_cases hv : v = d a <;> by_cases hi : i = a <;> simp [Memory.write, Memory.read, hv, hi]
  | cons c m ih =>
    obtain ⟨b, w⟩ := c
    obtain ⟨hb, hm⟩ := Memory.rising_cons.1 h
    by_cases hab : a < b
    · have hra : Memory.read d m a = d a := Memory.read_below fun c hc => hab.trans (hb c hc)
      have hne : a ≠ b := Nat.ne_of_lt hab
      by_cases hv : v = d a
      · by_cases hi : i = a
        · subst hi; simp [Memory.write, Memory.read, hab, hv, hne, hra]
        · simp [Memory.write, hab, hv, hi]
      · by_cases hi : i = a <;> simp [Memory.write, Memory.read, hab, hv, hi]
    · by_cases he : a = b
      · subst he
        have hra : Memory.read d m a = d a := Memory.read_below hb
        by_cases hv : v = d a
        · by_cases hi : i = a
          · subst hi; simp [Memory.write, hv, hra]
          · simp [Memory.write, Memory.read, hv, hi]
        · by_cases hi : i = a <;> simp [Memory.write, Memory.read, hv, hi]
      · by_cases hi : i = b
        · subst hi
          simp [Memory.write, Memory.read, hab, he, Ne.symm he]
        · simp [Memory.write, Memory.read, hab, he, hi, ih hm]

theorem Memory.read_write_same {m : Memory} (h : Memory.Rising m) (a : Nat) (v : Byte) :
    Memory.read d (Memory.write d m a v) a = v := by simp [Memory.read_write h]

theorem Memory.read_write_other {m : Memory} (h : Memory.Rising m) {a i : Nat} (v : Byte) (hi : i ≠ a) :
    Memory.read d (Memory.write d m a v) i = Memory.read d m i := by simp [Memory.read_write h, hi]

theorem Memory.mem_write {m : Memory} {a : Nat} {v : Byte} {c : Host.Cell} (hc : c ∈ Memory.write d m a v) :
    c ∈ m ∨ (c = (a, v) ∧ v ≠ d a) := by
  induction m with
  | nil =>
    by_cases hv : v = d a
    · simp [Memory.write, hv] at hc
    · simp only [Memory.write, hv, if_false, List.mem_singleton] at hc
      exact .inr ⟨hc, hv⟩
  | cons e m ih =>
    obtain ⟨b, w⟩ := e
    simp only [Memory.write] at hc
    split at hc
    · split at hc
      · exact .inl hc
      · rcases List.mem_cons.1 hc with rfl | h
        · exact .inr ⟨rfl, ‹_›⟩
        · exact .inl h
    · split at hc
      · split at hc
        · exact .inl (by simp [hc])
        · rcases List.mem_cons.1 hc with rfl | h
          · exact .inr ⟨rfl, ‹_›⟩
          · exact .inl (by simp [h])
      · rcases List.mem_cons.1 hc with rfl | h
        · exact .inl (by simp)
        · rcases ih h with h | h
          · exact .inl (by simp [h])
          · exact .inr h

theorem Memory.write_rising {m : Memory} (h : Memory.Rising m) (a : Nat) (v : Byte) :
    Memory.Rising (Memory.write d m a v) := by
  induction m with
  | nil => by_cases hv : v = d a <;> simp [Memory.write, hv, Memory.Rising]
  | cons e m ih =>
    obtain ⟨b, w⟩ := e
    obtain ⟨hb, hm⟩ := Memory.rising_cons.1 h
    simp only [Memory.write]
    split
    · rename_i hab
      split
      · exact h
      · refine Memory.rising_cons.2 ⟨?_, h⟩
        intro c hc
        rcases List.mem_cons.1 hc with rfl | hc
        · exact hab
        · exact hab.trans (hb c hc)
    · rename_i hab
      split
      · rename_i he
        subst he
        split
        · exact hm
        · exact Memory.rising_cons.2 ⟨hb, hm⟩
      · rename_i he
        refine Memory.rising_cons.2 ⟨?_, ih hm⟩
        intro c hc
        rcases Memory.mem_write hc with hc | ⟨rfl, -⟩
        · exact hb c hc
        · show b < a
          omega

/-- A write at an index that exists keeps the canonical form. -/
theorem Memory.write_wf {m : Memory} (h : Memory.wf d len m) {a : Nat} (ha : a < len) (v : Byte) :
    Memory.wf d len (Memory.write d m a v) := by
  refine ⟨Memory.write_rising h.1 a v, fun c hc => ?_⟩
  rcases Memory.mem_write hc with hc | ⟨rfl, hv⟩
  · exact h.2 c hc
  · exact ⟨ha, hv⟩

theorem Memory.nil_wf : Memory.wf d len [] := by simp [Memory.wf]

theorem Memory.mem_fill {f : Nat → Byte} {c : Host.Cell} (hc : c ∈ Memory.fill d len f) :
    c.1 < len ∧ c.2 = f c.1 ∧ f c.1 ≠ d c.1 := by
  obtain ⟨i, hi, h⟩ := List.mem_filterMap.1 hc
  split at h
  · simp at h
  · simp only [Option.some.injEq] at h
    subst h
    exact ⟨List.mem_range.1 hi, rfl, ‹_›⟩

theorem Memory.fill_rising (f : Nat → Byte) : Memory.Rising (Memory.fill d len f) := by
  unfold Memory.Rising Memory.fill
  rw [List.pairwise_map]
  refine List.Pairwise.filterMap (R := (· < ·)) _ ?_ List.pairwise_lt_range
  intro i j hij c hc e he
  split at hc
  · simp at hc
  · split at he
    · simp at he
    · simp only [Option.some.injEq] at hc he
      subst hc; subst he; exact hij

/-- A fill has the canonical form. -/
theorem Memory.fill_wf (f : Nat → Byte) : Memory.wf d len (Memory.fill d len f) :=
  ⟨Memory.fill_rising f, fun c hc => by
    obtain ⟨h1, h2, h3⟩ := Memory.mem_fill hc
    exact ⟨h1, h2 ▸ h3⟩⟩

theorem Memory.read_mem {m : Memory} (h : Memory.Rising m) {c : Host.Cell} (hc : c ∈ m) :
    Memory.read d m c.1 = c.2 := by
  induction m with
  | nil => simp at hc
  | cons e m ih =>
    obtain ⟨b, w⟩ := e
    obtain ⟨hb, hm⟩ := Memory.rising_cons.1 h
    rcases List.mem_cons.1 hc with rfl | hc
    · simp [Memory.read]
    · simp [Memory.read, Nat.ne_of_gt (hb c hc), ih hm hc]

theorem Memory.read_unlisted {m : Memory} {a : Nat} (h : ∀ c ∈ m, c.1 ≠ a) : Memory.read d m a = d a := by
  induction m with
  | nil => rfl
  | cons e m ih =>
    obtain ⟨b, w⟩ := e
    have hb : a ≠ b := fun he => h (b, w) (by simp) he.symm
    simp only [Memory.read, hb, if_false]
    exact ih fun c hc => h c (by simp [hc])

/-- A read after a fill. -/
theorem Memory.read_fill (f : Nat → Byte) (i : Nat) :
    Memory.read d (Memory.fill d len f) i = if i < len then f i else d i := by
  by_cases hi : i < len
  · by_cases hf : f i = d i
    · rw [Memory.read_unlisted, if_pos hi, hf]
      intro c hc he
      obtain ⟨-, -, h⟩ := Memory.mem_fill hc
      exact h (he ▸ hf)
    · have hmem : (i, f i) ∈ Memory.fill d len f :=
        List.mem_filterMap.2 ⟨i, List.mem_range.2 hi, by simp [hf]⟩
      have := Memory.read_mem (d := d) (Memory.fill_rising f) hmem
      simp only at this
      rw [this, if_pos hi]
  · rw [Memory.read_unlisted, if_neg hi]
    intro c hc he
    exact hi (he ▸ (Memory.mem_fill hc).1)

/-- Canonical contents that read alike below `len` are equal. -/
theorem Memory.wf_ext {m m' : Memory} (h : Memory.wf d len m) (h' : Memory.wf d len m')
    (hr : ∀ i < len, Memory.read d m i = Memory.read d m' i) : m = m' := by
  have key : ∀ (p q : Memory), Memory.wf d len p → Memory.wf d len q →
      (∀ i < len, Memory.read d p i = Memory.read d q i) → ∀ c ∈ p, c ∈ q := by
    intro p q hp hq hpq c hc
    by_contra hn
    have h1 := Memory.read_mem (d := d) hp.1 hc
    have hl := (hp.2 c hc).1
    by_cases hx : ∃ e ∈ q, e.1 = c.1
    · obtain ⟨e, he, hec⟩ := hx
      have h2 := Memory.read_mem (d := d) hq.1 he
      have h3 : e = c := Prod.ext hec (by rw [← h2, hec, ← hpq _ hl, h1])
      exact hn (h3 ▸ he)
    · have h2 : Memory.read d q c.1 = d c.1 := Memory.read_unlisted fun e he hec => hx ⟨e, he, hec⟩
      exact (hp.2 c hc).2 (by rw [← h1, hpq _ hl, h2])
  have nd : ∀ (p : Memory), Memory.wf d len p → p.Pairwise (fun a b => a.1 < b.1) := fun p hp =>
    List.pairwise_map.1 hp.1
  refine List.Perm.eq_of_pairwise (le := fun a b : Host.Cell => a.1 < b.1) ?_ (nd m h) (nd m' h') ?_
  · intro a b _ _ hab hba
    exact absurd hab (by omega)
  · refine (List.perm_ext_iff_of_nodup ?_ ?_).2 fun c => ⟨key m m' h h' hr c, key m' m h' h (fun i hi => (hr i hi).symm) c⟩
    · exact (nd m h).imp fun hab he => absurd hab (by rw [he]; omega)
    · exact (nd m' h').imp fun hab he => absurd hab (by rw [he]; omega)

/-- The state right after construction has the canonical form. -/
theorem State.constructed_framebuffer_wf (c : Config) :
    Memory.wf (State.constructed c).cfg.resetByte (State.constructed c).cfg.len (State.constructed c).fb :=
  Memory.nil_wf

end Sys2Proof.Machine
end

