-- ==== Sys2Proof/Laws/Exec.lean ====
section
/-! SUPPORT. What one operation can do, said once (`exec_cases`): it answers without touching a wire, or it performs acts;
and what the byte accesses below it can do. -/

namespace Sys2Proof.Machine

theorem State.memRead_of_lt {s : State} {a : Nat} (h : a < s.cfg.len) : s.memRead a = .ok (s.byteAt a) := by
  simp [State.memRead, h]

theorem State.memWrite_of_lt {s : State} {a : Nat} (v : Byte) (h : a < s.cfg.len) :
    s.memWrite a v = .ok { s with fb := Memory.write s.cfg.resetByte s.fb a v } := by
  simp [State.memWrite, h]

/-- All that a byte write can do where it succeeds. -/
theorem State.memWrite_ok {s t : State} {a : Nat} {v : Byte} (h : s.memWrite a v = .ok t) :
    a < s.cfg.len ∧ t = { s with fb := Memory.write s.cfg.resetByte s.fb a v } := by
  unfold State.memWrite at h
  split at h
  · exact ⟨‹_›, by simpa using h.symm⟩
  · simp at h

/-- All that a pixel write can change: the framebuffer, which keeps its canonical form. -/
theorem State.writePixel_ok {s t : State} {c : ColorValue} {nx ny : Nat} (h : s.writePixel c nx ny = .ok t) :
    t = { s with fb := t.fb } ∧
      (Memory.wf s.cfg.resetByte s.cfg.len s.fb → Memory.wf s.cfg.resetByte s.cfg.len t.fb) := by
  unfold State.writePixel at h
  simp only [bind, Except.bind] at h
  split at h
  · split at h
    · simp at h
    · obtain ⟨h1, rfl⟩ := State.memWrite_ok h
      exact ⟨rfl, fun hw => Memory.write_wf hw h1 _⟩
  · split at h
    · simp at h
    · obtain ⟨h1, rfl⟩ := State.memWrite_ok h
      exact ⟨rfl, fun hw => Memory.write_wf hw h1 _⟩
  · split at h
    · simp at h
    · split at h
      · simp at h
      · rename_i u hu
        split at h
        · simp at h
        · obtain ⟨h1, rfl⟩ := State.memWrite_ok hu
          obtain ⟨h2, rfl⟩ := State.memWrite_ok h
          exact ⟨rfl, fun hw => Memory.write_wf (Memory.write_wf hw h1 _) h2 _⟩

/-- A color a tag names is of the buffer's depth. -/
theorem Layout.holds_colorOfTag {l : Layout} {tag : ColorTag} {c : ColorValue} (h : l.colorOfTag tag = some c) :
    l.holds c = true := by
  cases l <;> simp only [Layout.colorOfTag, Layout.colorOfTag.twoBit] at h
  all_goals repeat' split at h
  all_goals first
    | (simp at h; done)
    | (simp at h; subst h; rfl)

/-- `t` is `s` with an outcome other than `BUS_ERROR` answered, and nothing but the framebuffer, the rotation and the
background written before; what is written keeps the framebuffer canonical and the background of the buffer's depth. -/
def Answered (s t : State) : Prop :=
  ∃ (u : State) (status : Status) (result : Result),
    t = u.answer status result ∧ status ≠ .busError ∧
    u = { s with fb := u.fb, rotation := u.rotation, background := u.background } ∧
    (Memory.wf s.cfg.resetByte s.cfg.len s.fb → Memory.wf s.cfg.resetByte s.cfg.len u.fb) ∧
    (s.cfg.layout.holds s.background = true → s.cfg.layout.holds u.background = true)

/-- `t` is what performing some acts makes of `s`. -/
def Performed (s t : State) : Prop := ∃ (acts : List Act) (after : Session), t = s.perform acts after

theorem Answered.plain (s : State) (status : Status) (result : Result) (h : status ≠ .busError) :
    Answered s (s.answer status result) := ⟨s, status, result, rfl, h, rfl, id, id⟩

/-- All that an operation can do where it answers a next state. -/
theorem exec_cases (i : Instr) (s t : State) (h : exec i s = .next t) : Answered s t ∨ Performed s t := by
  have plain : ∀ status result, s.answer status result = t → status ≠ .busError → Answered s t ∨ Performed s t := by
    rintro status result rfl hs
    exact .inl (.plain s status result hs)
  have acts : ∀ as after, s.perform as after = t → Answered s t ∨ Performed s t :=
    fun as after h => .inr ⟨as, after, h.symm⟩
  cases i <;> simp only [exec] at h
  case setPixel x y c =>
    simp only [execSetPixel] at h
    split at h
    · exact plain _ _ (by simpa using h) (by simp)
    · split at h
      · exact plain _ _ (by simpa using h) (by simp)
      · split at h
        · rename_i v hv
          obtain ⟨h1, h2⟩ := State.writePixel_ok hv
          simp only [Host.Outcome.next.injEq] at h
          subst h
          exact .inl ⟨v, .ok, .nothing, rfl, by simp, by rw [h1], h2, by rw [h1]; exact id⟩
        · simp at h
  case fill c =>
    simp only [execFill] at h
    split at h
    · exact plain _ _ (by simpa using h) (by simp)
    · simp only [Host.Outcome.next.injEq] at h
      subst h
      exact .inl ⟨_, .ok, .nothing, rfl, by simp, rfl, fun _ => Memory.fill_wf _, id⟩
  case setRotation r =>
    simp only [execSetRotation, Host.Outcome.next.injEq] at h
    subst h
    exact .inl ⟨_, .ok, .nothing, rfl, by simp, rfl, id, id⟩
  case setBackgroundColor c =>
    simp only [execSetBackgroundColor] at h
    split at h
    · split at h
      · exact plain _ _ (by simpa using h) (by simp)
      · rename_i hc
        simp only [Host.Outcome.next.injEq] at h
        subst h
        exact .inl ⟨_, .ok, .nothing, rfl, by simp, rfl, id, fun _ => Layout.holds_colorOfTag hc⟩
    · exact plain _ _ (by simpa using h) (by simp)
  all_goals
    simp only [execResolve, execGetRotation, execRawBytes, execBackgroundColor, execUpdateAchromaticFrame,
      execUpdateChromaticFrame, State.planeWrite, execSendCommand, execSendData, execSendDataVerbatim,
      execSendCommandWithData, execRepeatByte, execReset, execNew, execUpdateFrame, execDisplayFrame,
      execUpdateAndDisplayFrame, execClearFrame, execSleep, execWake] at h
    repeat' split at h
    all_goals
      simp only [Host.Outcome.next.injEq, State.succeed_eq, State.reject_eq] at h
      first
        | exact acts _ _ h
        | exact plain _ _ h (by simp)

end Sys2Proof.Machine
end

