-- ==== Sys2Proof/Laws/Header.lean ====
section
/-! SUPPORT. The header word's fields and the operand words, read back from what the encoder writes. -/

namespace Sys2Proof

@[simp] theorem headerOp_headerWord (op a : Byte) : headerOp (headerWord op a) = op := by
  unfold headerOp headerWord
  apply BitVec.eq_of_getLsbD_eq
  intro k hk
  have h1 : ¬ 24 + k < 16 := by omega
  have h2 : ¬ 24 + k - 16 < 8 := by omega
  have h3 : 24 + k - 16 - 8 = k := by omega
  simp only [BitVec.getLsbD_extractLsb', BitVec.getLsbD_append, hk]
  simp [h1, h2, h3]

@[simp] theorem headerA_headerWord (op a : Byte) : headerA (headerWord op a) = a := by
  unfold headerA headerWord
  apply BitVec.eq_of_getLsbD_eq
  intro k hk
  have h1 : ¬ 16 + k < 16 := by omega
  have h2 : 16 + k - 16 < 8 := by omega
  have h3 : 16 + k - 16 = k := by omega
  simp only [BitVec.getLsbD_extractLsb', BitVec.getLsbD_append, hk]
  simp [h1, h3, hk]

@[simp] theorem headerZ_headerWord (op a : Byte) : headerZ (headerWord op a) = 0 := by
  unfold headerZ headerWord
  apply BitVec.eq_of_getLsbD_eq
  intro k hk
  simp only [BitVec.getLsbD_extractLsb', BitVec.getLsbD_append, hk]
  simp [hk]

/-- A header whose `Z` is zero is made of its `OP` and its `A`. -/
theorem headerWord_of_fields (h : Word) (hz : headerZ h = 0) : headerWord (headerOp h) (headerA h) = h := by
  apply BitVec.eq_of_getLsbD_eq
  intro k hk
  simp only [headerWord, headerOp, headerA, BitVec.getLsbD_append, BitVec.getLsbD_extractLsb']
  by_cases h1 : k < 16
  · have hk0 : (headerZ h).getLsbD k = false := by rw [hz]; simp
    simp [headerZ, h1] at hk0
    simp [h1, hk0]
  · by_cases h2 : k - 16 < 8
    · simp [h1, h2, show 16 + (k - 16) = k by omega]
    · simp [h1, h2, show 24 + (k - 16 - 8) = k by omega, show k - 16 - 8 < 8 by omega]

theorem Operation.ofNumber_number (o : Operation) : Operation.ofNumber o.number = some o := by cases o <;> decide

theorem Operation.number_of_ofNumber {b : Byte} {o : Operation} (h : Operation.ofNumber b = some o) : o.number = b := by
  have := List.find?_some h
  simpa using this

theorem toInt_ofInt_of_fits {x : Int} (h : coordinateFits x = true) : (BitVec.ofInt 32 x).toInt = x := by
  simp [coordinateFits] at h
  rw [BitVec.toInt_ofInt]
  apply Int.bmod_eq_of_le <;> omega

theorem toNat_ofNat_of_fits {n : Nat} (h : countFits n = true) : (BitVec.ofNat 32 n).toNat = n := by
  simp [countFits] at h
  simp; omega

end Sys2Proof
end

