-- ==== Sys2Proof/Laws/PerInstr.lean ====
section
/-! SUPPORT. Per-instruction facts about the encoding. `HeaderMatchesRow`: the header word of an encoded instruction selects
the instruction's row of the opcode table, `h & mask = match` (30_encoding.md R81). -/

namespace Sys2Proof.Laws

/-- Any immediate leaves the operation number and the zero field of a header as they are. -/
theorem headerWord_masked (op a : Byte) : headerWord op a &&& 0xFF00FFFF#32 = headerWord op 0 := by
  apply BitVec.eq_of_getLsbD_eq
  intro k hk
  have hm : ∀ j : Fin 32, (0xFF00FFFF#32).getLsbD j.val = decide (j.val < 16 ∨ 24 ≤ j.val) := by decide
  have hm := hm ⟨k, hk⟩
  simp only [headerWord, BitVec.getLsbD_and, BitVec.getLsbD_append, hm]
  by_cases h1 : k < 16
  · simp [h1]
  · by_cases h2 : k - 16 < 8
    · have h3 : ¬ 24 ≤ k := by omega
      simp [h1, h2, h3]
    · have h3 : 24 ≤ k := by omega
      simp [h1, h2, h3]

/-- The header of an instruction's encoding matches the row of its operation (30_encoding.md R81). -/
def HeaderMatchesRow.Statement (i : Instr) : Prop :=
  headerWord i.operation.number i.immediate &&& i.operation.rowMask = i.operation.rowMatch

theorem HeaderMatchesRow.resolve (x y : Int) : HeaderMatchesRow.Statement (.resolve x y) := by
  simp only [HeaderMatchesRow.Statement, Instr.operation, Instr.immediate]; decide

theorem HeaderMatchesRow.setPixel (x y : Int) (color : ColorTag) : HeaderMatchesRow.Statement (.setPixel x y color) :=
  (headerWord_masked _ _).trans (by simp only [Instr.operation]; decide)

theorem HeaderMatchesRow.fill (color : ColorTag) : HeaderMatchesRow.Statement (.fill color) :=
  (headerWord_masked _ _).trans (by simp only [Instr.operation]; decide)

theorem HeaderMatchesRow.setRotation (rot : Rotation) : HeaderMatchesRow.Statement (.setRotation rot) := by
  cases rot <;> unfold HeaderMatchesRow.Statement <;> decide

theorem HeaderMatchesRow.getRotation : HeaderMatchesRow.Statement .getRotation := by
  unfold HeaderMatchesRow.Statement; decide

theorem HeaderMatchesRow.rawBytes : HeaderMatchesRow.Statement .rawBytes := by
  unfold HeaderMatchesRow.Statement; decide

theorem HeaderMatchesRow.sendCommand (opcode : Byte) : HeaderMatchesRow.Statement (.sendCommand opcode) :=
  (headerWord_masked _ _).trans (by simp only [Instr.operation]; decide)

theorem HeaderMatchesRow.sendData (bytes : List Byte) : HeaderMatchesRow.Statement (.sendData bytes) := by
  simp only [HeaderMatchesRow.Statement, Instr.operation, Instr.immediate]; decide

theorem HeaderMatchesRow.sendDataVerbatim (bytes : List Byte) : HeaderMatchesRow.Statement (.sendDataVerbatim bytes) := by
  simp only [HeaderMatchesRow.Statement, Instr.operation, Instr.immediate]; decide

theorem HeaderMatchesRow.sendCommandWithData (opcode : Byte) (bytes : List Byte) : HeaderMatchesRow.Statement (.sendCommandWithData opcode bytes) :=
  (headerWord_masked _ _).trans (by simp only [Instr.operation]; decide)

theorem HeaderMatchesRow.repeatByte (value : Byte) (count : Nat) : HeaderMatchesRow.Statement (.repeatByte value count) :=
  (headerWord_masked _ _).trans (by simp only [Instr.operation]; decide)

theorem HeaderMatchesRow.reset (durationLowMs : Nat) : HeaderMatchesRow.Statement (.reset durationLowMs) := by
  simp only [HeaderMatchesRow.Statement, Instr.operation, Instr.immediate]; decide

theorem HeaderMatchesRow.new : HeaderMatchesRow.Statement .new := by
  unfold HeaderMatchesRow.Statement; decide

theorem HeaderMatchesRow.updateFrame (buffer : List Byte) : HeaderMatchesRow.Statement (.updateFrame buffer) := by
  simp only [HeaderMatchesRow.Statement, Instr.operation, Instr.immediate]; decide

theorem HeaderMatchesRow.displayFrame : HeaderMatchesRow.Statement .displayFrame := by
  unfold HeaderMatchesRow.Statement; decide

theorem HeaderMatchesRow.updateAndDisplayFrame (buffer : List Byte) : HeaderMatchesRow.Statement (.updateAndDisplayFrame buffer) := by
  simp only [HeaderMatchesRow.Statement, Instr.operation, Instr.immediate]; decide

theorem HeaderMatchesRow.clearFrame : HeaderMatchesRow.Statement .clearFrame := by
  unfold HeaderMatchesRow.Statement; decide

theorem HeaderMatchesRow.setBackgroundColor (color : ColorTag) : HeaderMatchesRow.Statement (.setBackgroundColor color) :=
  (headerWord_masked _ _).trans (by simp only [Instr.operation]; decide)

theorem HeaderMatchesRow.backgroundColor : HeaderMatchesRow.Statement .backgroundColor := by
  unfold HeaderMatchesRow.Statement; decide

theorem HeaderMatchesRow.sleep : HeaderMatchesRow.Statement .sleep := by
  unfold HeaderMatchesRow.Statement; decide

theorem HeaderMatchesRow.wake : HeaderMatchesRow.Statement .wake := by
  unfold HeaderMatchesRow.Statement; decide

theorem HeaderMatchesRow.updateAchromaticFrame (buffer : List Byte) : HeaderMatchesRow.Statement (.updateAchromaticFrame buffer) := by
  simp only [HeaderMatchesRow.Statement, Instr.operation, Instr.immediate]; decide

theorem HeaderMatchesRow.updateChromaticFrame (buffer : List Byte) : HeaderMatchesRow.Statement (.updateChromaticFrame buffer) := by
  simp only [HeaderMatchesRow.Statement, Instr.operation, Instr.immediate]; decide

end Sys2Proof.Laws
end

