-- ==== Sys2Proof/Tests/Slice0.lean ====
section
/-! SUPPORT. Tests of the model, every expected value from the spec's vectors (95_test_vectors.md) or worked out by hand from a
rule, and for every statement with hypotheses a concrete state and operands that meet them. -/

namespace Sys2Proof.Tests

open Sys2Proof.Machine Sys2Proof.Claims

/-! ### The configurations and states the tests share -/

/-- `L1`, 10 by 3, the made-up profile of V7. -/
def cfgL1 : Config := Config.atReset

/-- `X2`, 128 by 96, filled `White` at construction (V2, V4). -/
def cfgX2 : Config := { cfgL1 with width := 128, height := 96, layout := .x2, defaultBackground := .gray .white }

/-- `X2`, 8 by 2 (V2). -/
def cfgX2small : Config := { cfgX2 with width := 8, height := 2 }

/-- `Y2`, 16 by 16, all `00` at construction (V3, V4). -/
def cfgY2 : Config := { cfgX2 with width := 16, height := 16, layout := .y2, defaultBackground := .gray .black }

/-- `Y2`, 8 by 8, `Gray1` at construction (P6). -/
def cfgY2small : Config := { cfgY2 with width := 8, height := 8, defaultBackground := .gray .gray1 }

/-- A block just constructed with `c`, whose platform answers as listed. -/
def fresh (c : Config) (answers : List Answer) : State := { State.constructed c with answers := answers }

/-- The same block after a NEW that made no transfer, with `SESSION` as given. -/
def awake (c : Config) (session : Session) (answers : List Answer) : State :=
  { fresh c answers with session := session, rst := .driven .high, trace := resetEvents 10 }

/-- Enough good answers for every test. -/
def oks : List Answer := List.replicate 12 .ok

/-- The two-plane profile of the tests (opcodes made up). -/
def cfgTwoPlane : Config := { cfgL1 with profileOps := { cfgL1.profileOps with planeOps := some ⟨0x10, 0x13⟩ } }

/-- The state after an instruction, where there is one. -/
def next? (i : Instr) (s : State) : Option State :=
  match exec i s with
  | .next t => some t
  | .fault _ => none
  | .refused _ => none

/-- The trace an instruction leaves on a state whose trace is empty, and the status it answers. -/
def traceOf (i : Instr) (s : State) : Option (List Event × Option Response) :=
  (next? i s).map fun t => (t.trace.drop s.trace.length, t.response)

/-- The answer with a status and no result. -/
def only (status : Status) : Option Response := some ⟨status, .nothing⟩

/-- The state after a step, where there is one. -/
def stepped? (s : State) : Option State :=
  match step s with
  | .next t => some t
  | .fault _ => none
  | .refused _ => none

/-! ### WellFormed: each check refuses an ill-formed term -/

theorem test_wellFormed_x_low : (Instr.resolve (-(2 ^ 31) - 1) 0).wellFormed = false := by decide
theorem test_wellFormed_x_high : (Instr.resolve (2 ^ 31) 0).wellFormed = false := by decide
theorem test_wellFormed_y_low : (Instr.setPixel 0 (-(2 ^ 31) - 1) 0).wellFormed = false := by decide
theorem test_wellFormed_y_high : (Instr.setPixel 0 (2 ^ 31) 0).wellFormed = false := by decide
theorem test_wellFormed_pixel_tag : (Instr.setPixel 0 0 4).wellFormed = false := by decide
theorem test_wellFormed_fill_tag : (Instr.fill 4).wellFormed = false := by decide
theorem test_wellFormed_background_tag : (Instr.setBackgroundColor 255).wellFormed = false := by decide
theorem test_wellFormed_count : (Instr.repeatByte 0 (2 ^ 32)).wellFormed = false := by decide
theorem test_wellFormed_duration : (Instr.reset (2 ^ 32)).wellFormed = false := by decide
theorem test_wellFormed_length : countFits (2 ^ 32) = false := by decide
theorem test_config_bad_width : { cfgX2 with width := 12 }.wellFormed = false := by decide
theorem test_config_bad_height : { cfgY2 with height := 12 }.wellFormed = false := by decide
theorem test_config_no_width : { cfgL1 with width := 0 }.wellFormed = false := by decide
theorem test_config_no_height : { cfgL1 with height := 0 }.wellFormed = false := by decide
theorem test_config_too_long : { cfgL1 with width := 2 ^ 31, height := 2 ^ 31 }.wellFormed = false := by decide
theorem test_config_bad_patterns :
    { cfgX2 with gray2Pat := { Gray2Pattern.gray2Ex with gray1 := 0b00 } }.wellFormed = false := by decide
theorem test_config_no_chunk : { cfgL1 with chunkLimit := some 0 }.wellFormed = false := by decide
theorem test_config_bad_background : { cfgL1 with defaultBackground := .gray .white }.wellFormed = false := by decide
theorem test_config_pin_errors : { cfgL1 with surfacePinErrors := true }.wellFormed = false := by decide

/-! ### Decoding: the words of V8, P1 to P6 and R94, and one written out for each row the vectors leave out -/

theorem test_decode_resolve : decodeRequest ⟨[0x00000000, 0x00000001, 0x00000003], []⟩ = .ok (.resolve 1 3) := by decide
theorem test_decode_setPixel :
    decodeRequest ⟨[0x01010000, 0xFFFFFFFF, 0x00000005], []⟩ = .ok (.setPixel (-1) 5 1) := by decide
theorem test_decode_fill : decodeRequest ⟨[0x02030000], []⟩ = .ok (.fill 3) := by decide
theorem test_decode_setRotation : decodeRequest ⟨[0x03030000], []⟩ = .ok (.setRotation .rotate270) := by decide
theorem test_decode_getRotation : decodeRequest ⟨[0x04000000], []⟩ = .ok .getRotation := by decide
theorem test_decode_rawBytes : decodeRequest ⟨[0x05000000], []⟩ = .ok .rawBytes := by decide
theorem test_decode_sendCommand : decodeRequest ⟨[0x10240000], []⟩ = .ok (.sendCommand 0x24) := by decide
theorem test_decode_sendData :
    decodeRequest ⟨[0x11000000, 0x00000003], [0x01, 0x02, 0x03]⟩ = .ok (.sendData [0x01, 0x02, 0x03]) := by decide
theorem test_decode_sendDataVerbatim :
    decodeRequest ⟨[0x12000000, 0x00000001], [0x7F]⟩ = .ok (.sendDataVerbatim [0x7F]) := by decide
theorem test_decode_sendCommandWithData :
    decodeRequest ⟨[0x13240000, 0x00000002], [0xAA, 0x55]⟩ = .ok (.sendCommandWithData 0x24 [0xAA, 0x55]) := by decide
theorem test_decode_repeatByte : decodeRequest ⟨[0x14FF0000, 0x00000C00], []⟩ = .ok (.repeatByte 0xFF 3072) := by decide
theorem test_decode_reset : decodeRequest ⟨[0x15000000, 0x0000000A], []⟩ = .ok (.reset 10) := by decide
theorem test_decode_new : decodeRequest ⟨[0x20000000], []⟩ = .ok .new := by decide
theorem test_decode_updateFrame :
    decodeRequest ⟨[0x21000000, 0x00000002], [0x01, 0x80]⟩ = .ok (.updateFrame [0x01, 0x80]) := by decide
theorem test_decode_displayFrame : decodeRequest ⟨[0x22000000], []⟩ = .ok .displayFrame := by decide
theorem test_decode_updateAndDisplayFrame :
    decodeRequest ⟨[0x23000000, 0x00000001], [0xFF]⟩ = .ok (.updateAndDisplayFrame [0xFF]) := by decide
theorem test_decode_clearFrame : decodeRequest ⟨[0x24000000], []⟩ = .ok .clearFrame := by decide
theorem test_decode_setBackgroundColor : decodeRequest ⟨[0x25010000], []⟩ = .ok (.setBackgroundColor 1) := by decide
theorem test_decode_backgroundColor : decodeRequest ⟨[0x26000000], []⟩ = .ok .backgroundColor := by decide
theorem test_decode_sleep : decodeRequest ⟨[0x27000000], []⟩ = .ok .sleep := by decide
theorem test_decode_wake : decodeRequest ⟨[0x28000000], []⟩ = .ok .wake := by decide
theorem test_decode_updateAchromaticFrame :
    decodeRequest ⟨[0x29000000, 0x00000001], [0x0F]⟩ = .ok (.updateAchromaticFrame [0x0F]) := by decide
theorem test_decode_updateChromaticFrame :
    decodeRequest ⟨[0x2A000000, 0x00000001], [0xF0]⟩ = .ok (.updateChromaticFrame [0xF0]) := by decide

theorem test_decode_resolve_immediate : decodeRequest ⟨[0x00010000], []⟩ = .error .nonzeroImmediate := by decide
theorem test_decode_color_tag_4 : decodeRequest ⟨[0x01040000], []⟩ = .error .illegalColorTag := by decide
theorem test_decode_rotation_4 : decodeRequest ⟨[0x03040000], []⟩ = .error .illegalRotation := by decide
theorem test_decode_z : decodeRequest ⟨[0x05000001], []⟩ = .error .nonzeroZ := by decide
theorem test_decode_reserved :
    decodeRequest ⟨[0x06000000], []⟩ = .error .reservedOperation ∧
    decodeRequest ⟨[0x2B000000], []⟩ = .error .reservedOperation ∧
    decodeRequest ⟨[0xFF000000], []⟩ = .error .reservedOperation := by decide
theorem test_decode_short_payload : decodeRequest ⟨[0x11000000, 0x00000003], [0x01]⟩ = .error .malformedFrame := by decide
theorem test_decode_table_word :
    decodeTableWord 32 0x10240000 = some (.sendCommand 0x24) ∧ decodeTableWord 32 0x00000000 = some (.resolve 0 0) ∧
    decodeTableWord 80 0x55AA0000000213240000 = some (.sendCommandWithData 0x24 [0xAA, 0x55]) := by decide

/-! ### Steps -/

theorem test_resolve_x2 : (next? (.resolve 5 7) { fresh cfgX2 [] with rotation := .rotate90 }).map State.response =
    some (some ⟨.ok, .address (some ⟨190, 0xC0⟩)⟩) := by decide
theorem test_resolve_y2 : (next? (.resolve 5 9) { fresh cfgY2 [] with rotation := .rotate270 }).map State.response =
    some (some ⟨.ok, .address (some ⟨50, 0x04⟩)⟩) := by decide
/-- V4 vector 7, second step. -/
theorem test_setPixel_x2 : (next? (.setPixel 1 0 2) { fresh cfgX2 [] with fb := [(0, 0x3F)] }).map
    (fun t => (t.fb, t.response)) = some ([(0, 0x1F)], only .ok) := by decide
/-- V4 vector 15. -/
theorem test_setPixel_y2_lsbFirst :
    (next? (.setPixel 5 9 2) (fresh { cfgY2 with y2PlaneOrder := .lsbFirst } [])).map State.fb = some [(42, 0x02)] := by
  decide
/-- V4 vector 6: pad bits too. -/
theorem test_fill_l1 : (next? (.fill 1) (fresh cfgL1 [])).map State.rawBytes =
    some [0xFF, 0xFF, 0xFF, 0xFF, 0xFF, 0xFF] := by decide
/-- V4 vector 16. -/
theorem test_fill_y2 : (next? (.fill 2) (fresh { cfgY2small with defaultBackground := .gray .white } [])).map State.rawBytes =
    some [0x00, 0xFF, 0x00, 0xFF, 0x00, 0xFF, 0x00, 0xFF, 0x00, 0xFF, 0x00, 0xFF, 0x00, 0xFF, 0x00, 0xFF] := by decide
/-- V4 vector 18. -/
theorem test_setRotation : (next? (.setRotation .rotate270) (fresh cfgL1 [])).map
    (fun t => (t.rotation, t.fb, t.response)) = some (.rotate270, [], only .ok) := by decide
theorem test_getRotation : (next? .getRotation { fresh cfgL1 [] with rotation := .rotate270 }).map State.response =
    some (some ⟨.ok, .rotation 3⟩) := by decide
/-- V4 vector 20. -/
theorem test_rawBytes : (next? .rawBytes { fresh cfgL1 [] with fb := [(5, 0x02)] }).map State.response =
    some (some ⟨.ok, .bytes [0x00, 0x00, 0x00, 0x00, 0x00, 0x02]⟩) := by decide
/-- V5 vector 1. -/
theorem test_sendCommand : traceOf (.sendCommand 0x12) (fresh cfgL1 oks) =
    some ([.dc .low, .xfer [0x12] .ok], only .ok) := by decide
/-- V5 vector 15. -/
theorem test_sendCommand_err : traceOf (.sendCommand 0x12) (fresh cfgL1 [.err]) =
    some ([.dc .low, .xfer [0x12] .err], only .busError) := by decide
/-- V5 vector 5. -/
theorem test_sendData_chunks : traceOf (.sendData [1, 2, 3, 4, 5]) (fresh { cfgL1 with chunkLimit := some 2 } oks) =
    some ([.dc .high, .xfer [1, 2] .ok, .xfer [3, 4] .ok, .xfer [5] .ok], only .ok) := by decide
/-- V5 vector 4. -/
theorem test_sendData_bytes : traceOf (.sendData [1, 2, 3]) (fresh { cfgL1 with chunkLimit := none } oks) =
    some ([.dc .high, .xfer [1] .ok, .xfer [2] .ok, .xfer [3] .ok], only .ok) := by decide
/-- V5 vector 8. -/
theorem test_sendDataVerbatim_empty : traceOf (.sendDataVerbatim []) (fresh cfgL1 oks) =
    some ([.dc .high, .xfer [] .ok], only .ok) := by decide
/-- V5 vector 9 with a smaller limit (R147). -/
theorem test_sendDataVerbatim_oversized :
    traceOf (.sendDataVerbatim [1, 2, 3]) (fresh { cfgL1 with chunkLimit := some 2 } oks) = some ([], only .rejected) := by
  decide
/-- P4, step 1. -/
theorem test_sendCommandWithData_err :
    traceOf (.sendCommandWithData 0x24 [1, 2, 3, 4, 5]) (fresh { cfgL1 with chunkLimit := some 2 } [.ok, .ok, .err]) =
    some ([.dc .low, .xfer [0x24] .ok, .dc .high, .xfer [1, 2] .ok, .xfer [3, 4] .err], only .busError) := by decide
/-- V5 vector 12. -/
theorem test_sendCommandWithData_empty : traceOf (.sendCommandWithData 0x24 []) (fresh cfgL1 oks) =
    some ([.dc .low, .xfer [0x24] .ok, .dc .high], only .ok) := by decide
/-- V5 vector 13. -/
theorem test_repeatByte : traceOf (.repeatByte 0xFF 3) (fresh cfgL1 oks) =
    some ([.dc .high, .xfer [0xFF] .ok, .xfer [0xFF] .ok, .xfer [0xFF] .ok], only .ok) := by decide
/-- V5 vector 19. -/
theorem test_repeatByte_err : traceOf (.repeatByte 0x55 4) (fresh cfgL1 [.ok, .err]) =
    some ([.dc .high, .xfer [0x55] .ok, .xfer [0x55] .err], only .busError) := by decide
/-- V6 vector 4. -/
theorem test_reset : traceOf (.reset 4294967295) (fresh cfgL1 oks) =
    some ([.rst .high, .delay 10, .rst .low, .delay 4294967295, .rst .high, .delay 250], only .ok) := by decide
/-- V7 vector 1. -/
theorem test_new : traceOf .new (fresh cfgL1 oks) =
    some ([.rst .high, .delay 10, .rst .low, .delay 10, .rst .high, .delay 250, .dc .low, .xfer [0x12] .ok, .dc .low,
      .xfer [0x01] .ok, .dc .high, .xfer [0x27, 0x01] .ok], only .ok) := by decide
/-- V7 vector 14. -/
theorem test_new_err : (next? .new (fresh cfgL1 [.ok, .err])).map
    (fun t => (t.session, t.trace.drop 6, t.response)) =
    some (.uninitialized, [.dc .low, .xfer [0x12] .ok, .dc .low, .xfer [0x01] .err], only .busError) := by decide
/-- V7 vector 3. -/
theorem test_updateFrame : traceOf (.updateFrame [0, 0, 0, 0, 0, 2]) (awake cfgL1 .ready oks) =
    some ([.dc .low, .xfer [0x24] .ok, .dc .high, .xfer [0, 0, 0, 0, 0, 2] .ok], only .ok) := by decide
/-- V7 vector 4. -/
theorem test_updateFrame_short : traceOf (.updateFrame [0, 0]) (awake cfgL1 .ready oks) = some ([], only .rejected) := by
  decide
/-- V7 vector 5. -/
theorem test_displayFrame : traceOf .displayFrame (awake cfgL1 .ready oks) =
    some ([.dc .low, .xfer [0x20] .ok], only .ok) := by decide
/-- V7 vector 10. -/
theorem test_displayFrame_sleeping : traceOf .displayFrame (awake cfgL1 .sleeping oks) = some ([], only .rejected) := by
  decide
/-- V7 vector 6. -/
theorem test_updateAndDisplayFrame :
    traceOf (.updateAndDisplayFrame [0xFF, 0xFF, 0xFF, 0xFF, 0xFF, 0xFF]) (awake cfgL1 .ready oks) =
    some ([.dc .low, .xfer [0x24] .ok, .dc .high, .xfer [0xFF, 0xFF, 0xFF, 0xFF, 0xFF, 0xFF] .ok, .dc .low,
      .xfer [0x20] .ok], only .ok) := by decide
/-- V7 vector 7. -/
theorem test_clearFrame : traceOf .clearFrame (awake cfgL1 .ready oks) =
    some ([.dc .low, .xfer [0x24] .ok, .dc .high, .xfer [0] .ok, .xfer [0] .ok, .xfer [0] .ok, .xfer [0] .ok,
      .xfer [0] .ok, .xfer [0] .ok], only .ok) := by decide
/-- V7 vector 8. -/
theorem test_setBackgroundColor : (next? (.setBackgroundColor 1) (awake cfgL1 .ready oks)).map
    (fun t => (t.background, t.trace.drop 6, t.response)) = some (.mono .on, [], only .ok) := by decide
theorem test_backgroundColor : (next? .backgroundColor { awake cfgL1 .sleeping oks with background := .mono .on }).map
    State.response = some (some ⟨.ok, .color 1⟩) := by decide
/-- V7 vector 9. -/
theorem test_sleep : (next? .sleep (awake cfgL1 .ready oks)).map (fun t => (t.session, t.trace.drop 6)) =
    some (.sleeping, [.dc .low, .xfer [0x10] .ok, .dc .high, .xfer [0x01] .ok]) := by decide
/-- V7 vector 12. -/
theorem test_wake : (next? .wake (awake cfgL1 .sleeping oks)).map (fun t => (t.session, t.trace.drop 6, t.response)) =
    some (.ready, [.rst .high, .delay 10, .rst .low, .delay 10, .rst .high, .delay 250, .dc .low, .xfer [0x12] .ok,
      .dc .low, .xfer [0x01] .ok, .dc .high, .xfer [0x27, 0x01] .ok], only .ok) := by decide
/-- By hand from R191. -/
theorem test_updateAchromaticFrame : traceOf (.updateAchromaticFrame [1, 2, 3, 4, 5, 6]) (awake cfgTwoPlane .ready oks) =
    some ([.dc .low, .xfer [0x10] .ok, .dc .high, .xfer [1, 2, 3, 4, 5, 6] .ok], only .ok) := by decide
/-- By hand from R192. -/
theorem test_updateChromaticFrame : traceOf (.updateChromaticFrame [1, 2, 3, 4, 5, 6]) (awake cfgTwoPlane .ready oks) =
    some ([.dc .low, .xfer [0x13] .ok, .dc .high, .xfer [1, 2, 3, 4, 5, 6] .ok], only .ok) := by decide
/-- V7 vector 15. -/
theorem test_updateChromaticFrame_absent : traceOf (.updateChromaticFrame [1, 2, 3, 4, 5, 6]) (awake cfgL1 .ready oks) =
    some ([], only .rejected) := by decide
/-- V4 vector 21: a tag of the other depth, through the request port. -/
theorem test_step_wrong_depth : (stepped? (State.reset.withFetchWord 32 0x02020000)).map
    (fun t => (t.response, t.requests, t.busy)) = some (only .rejected, [], false) := by decide
/-- P1, step 6: the first request after reset. -/
theorem test_step_first_request : (stepped? (State.reset.withFetchWord 32 0x03010000)).map
    (fun t => (t.rotation, t.response, t.requests, t.busy)) = some (.rotate90, only .ok, [], false) := by decide
/-- The bits of a byte, most significant first (R58). -/
theorem test_wire_bits : wireBits [0x24] = [false, false, true, false, false, true, false, false] := by decide
/-- The draw contract's dimensions follow the rotation (R131). -/
theorem test_boundingDimensions : boundingDimensions { fresh cfgL1 [] with rotation := .rotate90 } = (3, 10) := by decide
/-- A failed transfer may have delivered any prefix of itself, a good one only the whole (R204). -/
theorem test_mayDeliver : mayDeliver (.xfer [3, 4] .err) [3] = true ∧ mayDeliver (.xfer [3, 4] .ok) [3] = false := by
  decide
/-- The order of the two plane writes (R192). -/
theorem test_planesOrdered :
    planesOrdered false [.updateAchromaticFrame [], .setRotation .rotate90, .updateChromaticFrame []] = true ∧
    planesOrdered false [.updateAchromaticFrame [], .displayFrame, .updateChromaticFrame []] = false := by decide

/-! ### Witnesses: for every statement with hypotheses, a state and operands that meet them -/

theorem witness_DecodeOfEncodedInstruction :
    (Instr.setPixel (-(2 ^ 31)) (2 ^ 31 - 1) 3).wellFormed = true ∧ (Instr.reset (2 ^ 32 - 1)).wellFormed = true ∧
    (Instr.sendData []).wellFormed = true := by decide

theorem witness_DecodedRequestIsItsEncoding :
    decodeRequest ⟨[0x25030000], []⟩ = .ok (.setBackgroundColor 3) ∧
    decodeRequest ⟨[0x01010000, 0x80000000, 0x7FFFFFFF], []⟩ = .ok (.setPixel (-2147483648) 2147483647 1) := by decide

/-- A block in which `r` is presented. -/
def presenting (s : State) (r : Request) : State := { s with requests := [r] }

theorem witness_StepRunsTheDecodedRequest :
    (presenting State.reset ⟨[0x04000000], []⟩).cfg.wellFormed = true ∧
    (presenting State.reset ⟨[0x04000000], []⟩).busy = false ∧
    (presenting State.reset ⟨[0x04000000], []⟩).requests = ⟨[0x04000000], []⟩ :: [] ∧
    decodeRequest ⟨[0x04000000], []⟩ = .ok .getRotation ∧
    (presenting State.reset ⟨[0x06000000], []⟩).requests = ⟨[0x06000000], []⟩ :: [] ∧
    decodeRequest ⟨[0x06000000], []⟩ = .error .reservedOperation ∧
    decodeRequest ⟨[], []⟩ = .error .noHeader := by decide

theorem witness_NothingPresentedNothingDone : State.reset.cfg.wellFormed = true ∧ State.reset.requests = [] := by decide

theorem witness_BusyFromAcceptanceToOutcome :
    { State.reset with busy := true }.cfg.wellFormed = true ∧ { State.reset with busy := true }.busy = true ∧
    (presenting State.reset ⟨[0x04000000], []⟩).acceptance = .run .getRotation (State.reset.accept []) ∧
    (next? .getRotation (State.reset.accept [])).isSome = true := by decide

/-- A block of `s` in which `r` is presented meets the hypotheses of `IllegalRequestsAreRejected`, for the case `h` of R90. -/
theorem illegal_witness (s : State) (r : Request) (hw : s.cfg.wellFormed = true) (hb : s.busy = false) (h : illegal s r) :
    (presenting s r).cfg.wellFormed = true ∧ (presenting s r).busy = false ∧ (presenting s r).requests = r :: [] ∧
    illegal (presenting s r) r := ⟨hw, hb, rfl, h⟩

theorem witness_illegal_reserved : illegal State.reset ⟨[0x06000000], []⟩ ∧ illegal State.reset ⟨[0x2B000000], []⟩ :=
  ⟨⟨_, _, rfl, .inl (by decide)⟩, ⟨_, _, rfl, .inl (by decide)⟩⟩
theorem witness_illegal_z : illegal State.reset ⟨[0x05000001], []⟩ ∧ illegal State.reset ⟨[0x05008000], []⟩ :=
  ⟨⟨_, _, rfl, .inr (.inl (by decide))⟩, ⟨_, _, rfl, .inr (.inl (by decide))⟩⟩
theorem witness_illegal_immediate : illegal State.reset ⟨[0x00010000], []⟩ :=
  ⟨_, _, rfl, .inr (.inr (.inl (by decide)))⟩
theorem witness_illegal_rotation : illegal State.reset ⟨[0x03040000], []⟩ :=
  ⟨_, _, rfl, .inr (.inr (.inr (.inl (by decide))))⟩
theorem witness_illegal_color : illegal State.reset ⟨[0x02020000], []⟩ ∧ illegal (fresh cfgX2 []) ⟨[0x02040000], []⟩ :=
  ⟨⟨_, _, rfl, .inr (.inr (.inr (.inr (.inl (by decide)))))⟩, ⟨_, _, rfl, .inr (.inr (.inr (.inr (.inl (by decide)))))⟩⟩
theorem witness_illegal_oversized :
    illegal (fresh { cfgL1 with chunkLimit := some 2 } []) ⟨[0x12000000, 0x00000003], [1, 2, 3]⟩ :=
  ⟨_, _, rfl, .inr (.inr (.inr (.inr (.inr (.inl ⟨by decide, 3, 2, rfl, rfl, by decide⟩)))))⟩
theorem witness_illegal_new : illegal (awake cfgL1 .ready []) ⟨[0x20000000], []⟩ :=
  ⟨_, _, rfl, .inr (.inr (.inr (.inr (.inr (.inr (.inl (by decide)))))))⟩
theorem witness_illegal_wake : illegal State.reset ⟨[0x28000000], []⟩ :=
  ⟨_, _, rfl, .inr (.inr (.inr (.inr (.inr (.inr (.inr (.inl (by decide))))))))⟩
theorem witness_illegal_not_ready : illegal (awake cfgL1 .sleeping []) ⟨[0x22000000], []⟩ :=
  ⟨_, _, rfl, .inr (.inr (.inr (.inr (.inr (.inr (.inr (.inr (.inl (by decide)))))))))⟩
theorem witness_illegal_background : illegal State.reset ⟨[0x26000000], []⟩ :=
  ⟨_, _, rfl, .inr (.inr (.inr (.inr (.inr (.inr (.inr (.inr (.inr (.inl (by decide))))))))))⟩
theorem witness_illegal_plane : illegal (awake cfgL1 .ready []) ⟨[0x29000000, 0x00000006], [0, 0, 0, 0, 0, 0]⟩ :=
  ⟨_, _, rfl, .inr (.inr (.inr (.inr (.inr (.inr (.inr (.inr (.inr (.inr (.inl (by decide)))))))))))⟩
theorem witness_illegal_length : illegal (awake cfgL1 .ready []) ⟨[0x21000000, 0x00000005], [0, 0, 0, 0, 0]⟩ :=
  ⟨_, _, rfl, .inr (.inr (.inr (.inr (.inr (.inr (.inr (.inr (.inr (.inr (.inr ⟨by decide, 5, rfl, by decide⟩))))))))))⟩

/-- The awake block of every configuration that is well formed is sound. -/
theorem awake_invariant (c : Config) (session : Session) (answers : List Answer) (h : c.wellFormed = true) :
    Machine.Invariant (awake c session answers) := by
  have hb : c.layout.holds c.defaultBackground = true := by
    simp only [Config.wellFormed, Bool.and_eq_true] at h
    exact h.1.2
  exact ⟨h, ⟨List.Pairwise.nil, by simp [awake, fresh, State.constructed]⟩, hb, rfl, rfl, rfl, by simp [awake], fun _ => rfl, rfl,
    rfl⟩

theorem presenting_invariant {s : State} (h : Machine.Invariant s) (r : Request) : Machine.Invariant (presenting s r) :=
  ⟨h.config, h.framebuffer, h.background, h.idle, h.selectLine, h.resetLine, h.resetReleased, h.sessionReset, h.selected,
    h.counted⟩

theorem witness_LegalRequestsAreNotRejected :
    Machine.Invariant (presenting (awake cfgL1 .ready []) ⟨[0x21000000, 0x00000006], [0, 0, 0, 0, 0, 2]⟩) ∧
    framed ⟨[0x21000000, 0x00000006], [0, 0, 0, 0, 0, 2]⟩ ∧
    ¬ illegal (presenting (awake cfgL1 .ready []) ⟨[0x21000000, 0x00000006], [0, 0, 0, 0, 0, 2]⟩)
      ⟨[0x21000000, 0x00000006], [0, 0, 0, 0, 0, 2]⟩ := by
  refine ⟨presenting_invariant (awake_invariant cfgL1 .ready [] (by decide)) _,
    ⟨_, _, rfl, .inr (.inr (.inl ⟨by decide, 6, rfl, by decide⟩))⟩, ?_⟩
  rintro ⟨h, ws, hr, hi⟩
  simp only [List.cons.injEq] at hr
  obtain ⟨rfl, rfl⟩ := hr
  rcases hi with h | h | h | h | h | ⟨h, -⟩ | h | h | h | h | h | ⟨-, n, hn, h⟩
  · exact absurd h (by decide)
  · exact absurd h (by decide)
  · exact absurd h (by decide)
  · exact absurd h (by decide)
  · exact absurd h (by decide)
  · exact absurd h (by decide)
  · exact absurd h (by decide)
  · exact absurd h (by decide)
  · exact absurd h (by decide)
  · exact absurd h (by decide)
  · exact absurd h (by decide)
  · simp only [List.cons.injEq, and_true] at hn
    subst hn
    exact absurd h (by decide)

/-- The geometry constraints of R10, as the statement writes them. -/
def geometry (c : Config) : Prop :=
  1 ≤ c.width ∧ 1 ≤ c.height ∧ c.len < 2 ^ 32 ∧ ((c.layout = .x2 ∨ c.layout = .y2) → c.width % 8 = 0) ∧
    (c.layout = .y2 → c.height % 8 = 0)

theorem witness_IllFormedConfigurationIsRefused :
    ¬ geometry (fresh { cfgL1 with width := 0 } []).cfg ∧ ¬ geometry (fresh { cfgL1 with height := 0 } []).cfg ∧
    ¬ geometry (fresh { cfgL1 with width := 8, height := 2 ^ 32 } []).cfg ∧
    ¬ geometry (fresh { cfgX2 with width := 12 } []).cfg ∧ ¬ geometry (fresh { cfgY2 with height := 12 } []).cfg := by
  unfold geometry; decide

theorem witness_ConstructionState : { cfgX2 with width := 12 }.wellFormed = false ∧ cfgX2.wellFormed = true ∧
    (0 : Nat) < cfgX2.len ∧ cfgX2.len = 3072 := by decide

theorem witness_InvariantAtConstruction : construct cfgL1 = some (State.constructed cfgL1) := by decide

theorem witness_ResolveAnswersThePackedDevicePoint :
    insideArea cfgL1 .rotate0 9 2 ∧ ¬ insideArea cfgL1 .rotate0 10 2 ∧ ¬ insideArea cfgL1 .rotate0 (-1) 0 ∧
    insideArea cfgL1 .rotate90 2 9 ∧ ¬ insideArea cfgL1 .rotate90 3 9 ∧ ¬ insideArea cfgL1 .rotate270 2 10 := by
  simp [insideArea, cfgL1, Config.atReset]

theorem witness_ResolvedIndexIsInRange :
    cfgX2.wellFormed = true ∧ resolve cfgX2 .rotate0 127 95 = some ⟨3071, 0x03⟩ ∧
    cfgY2.wellFormed = true ∧ cfgY2.layout = .y2 ∧ resolve cfgY2 .rotate0 15 15 = some ⟨62, 0x80⟩ := by decide

theorem witness_PixelsDoNotShareFields :
    cfgL1.wellFormed = true ∧ resolve cfgL1 .rotate90 1 3 = some ⟨2, 0x40⟩ := by decide

theorem witness_InverseRotationRecoversThePoint : inBounds cfgL1 .rotate90 2 9 := by decide

theorem witness_SetPixelOneBit : sound (fresh cfgL1 []) ∧ (fresh cfgL1 []).cfg.layout = .l1 ∧
    devicePoint cfgL1 .rotate0 9 2 = some (9, 2) := by
  exact ⟨⟨by decide, by decide⟩, by decide, by decide⟩

theorem witness_SetPixelAlongX : sound (fresh cfgX2 []) ∧ (fresh cfgX2 []).cfg.layout = .x2 ∧
    cfgX2.layout.colorOfTag 3 = some (.gray .gray2) ∧ devicePoint cfgX2 .rotate0 127 95 = some (127, 95) := by
  exact ⟨⟨by decide, by decide⟩, by decide, by decide, by decide⟩

theorem witness_SetPixelInBothPlanes : sound (fresh cfgY2 []) ∧ (fresh cfgY2 []).cfg.layout = .y2 ∧
    cfgY2.layout.colorOfTag 2 = some (.gray .gray1) ∧ devicePoint cfgY2 .rotate0 5 9 = some (5, 9) ∧
    sound (fresh { cfgY2 with y2PlaneOrder := .lsbFirst } []) := by
  exact ⟨⟨by decide, by decide⟩, by decide, by decide, by decide, ⟨by decide, by decide⟩⟩

theorem witness_PixelOutOfBoundsIsDropped :
    (1 : ColorTag).toNat < 2 ^ (fresh cfgL1 []).cfg.layout.bitDepth ∧
    ¬ insideArea (fresh cfgL1 []).cfg (fresh cfgL1 []).rotation 10 0 := by
  refine ⟨by decide, ?_⟩
  simp [insideArea, fresh, State.constructed, cfgL1, Config.atReset]

theorem witness_PixelReadsBackAndOthersKeep : sound (fresh cfgX2 []) ∧ cfgX2.layout.colorOfTag 2 = some (.gray .gray1) ∧
    resolve cfgX2 .rotate0 1 0 = some ⟨0, 0x30⟩ ∧ resolve cfgX2 .rotate0 0 0 = some ⟨0, 0xC0⟩ ∧
    ((0, 0) : Int × Int) ≠ (1, 0) := by
  exact ⟨⟨by decide, by decide⟩, by decide, by decide, by decide, by decide⟩

theorem witness_FillWritesEveryByte : cfgL1.layout.colorOfTag 1 = some (.mono .on) ∧ (5 : Nat) < cfgL1.len ∧
    cfgX2.layout.colorOfTag 3 = some (.gray .gray2) ∧ cfgY2.layout.colorOfTag 0 = some (.gray .black) := by decide

theorem witness_FillIsTheLoopOfByteWrites :
    Memory.wf (fresh cfgL1 []).cfg.resetByte (fresh cfgL1 []).cfg.len (fresh cfgL1 []).fb := by decide

theorem witness_FillColorsEveryPixel : cfgY2.wellFormed = true ∧ cfgY2.layout.colorOfTag 2 = some (.gray .gray1) ∧
    resolve cfgY2 .rotate270 15 15 = some ⟨30, 0x01⟩ := by decide

theorem witness_ColorPatternLaws : cfgX2.wellFormed = true ∧ cfgX2.pat2 .gray1 = cfgX2.pat2 .gray1 := by decide

theorem witness_SplitKeepsEveryByte : 1 ≤ 1 ∧ 1 ≤ 2 ∧ (splitBytes (some 2) [1, 2, 3])[1]? = some [3] ∧
    (splitBytes (some 2) [1, 2, 3])[0]? = some [1, 2] ∧ (splitBytes (some 2) [1, 2])[0]? = some [1, 2] := by decide

/-- A block whose platform answers only `ok`, and one whose `n`-th answer from now is the first `err`. -/
def good (c : Config) (session : Session) : State := awake c session oks
def bad (c : Config) (session : Session) (n : Nat) : State := awake c session (List.replicate n .ok ++ [.err])

/-- The two hypotheses of `CarriesOut`, met by `good` and by `bad`: every transfer of the plan answered `ok`, and the failing
transfer after `pre`. -/
def carriedOut (c : Config) (session : Session) (plan pre : List Event) (bs : List Byte) (post : List Event) : Prop :=
  (∀ k < transferCount plan, (good c session).answerAt k = .ok) ∧ plan = pre ++ .xfer bs .ok :: post ∧
  (∀ k < transferCount pre, (bad c session (transferCount pre)).answerAt k = .ok) ∧
  (bad c session (transferCount pre)).answerAt (transferCount pre) = .err

theorem witness_SendCommandSendsOneByte :
    carriedOut cfgL1 .uninitialized [.dc .low, .xfer [0x12] .ok] [.dc .low] [0x12] [] := by unfold carriedOut; decide

theorem witness_SendDataSendsTheChunks :
    carriedOut { cfgL1 with chunkLimit := some 2 } .ready (.dc .high :: transfers (splitBytes (some 2) [1, 2, 3]))
      [.dc .high, .xfer [1, 2] .ok] [3] [] := by unfold carriedOut; decide

theorem witness_VerbatimMakesOneTransfer :
    carriedOut cfgL1 .ready [.dc .high, .xfer [1, 2, 3] .ok] [.dc .high] [1, 2, 3] [] ∧
    (∀ limit, { cfgL1 with chunkLimit := some 3 }.chunkLimit = some limit → [1, 2, 3].length ≤ limit) ∧
    { cfgL1 with chunkLimit := some 2 }.chunkLimit = some 2 ∧ 2 < [1, 2, 3].length := by
  exact ⟨by unfold carriedOut; decide, by simp, by decide, by decide⟩

theorem witness_CommandThenDataPhase :
    carriedOut cfgL1 .ready (.dc .low :: .xfer [0x24] .ok :: .dc .high :: transfers (splitBytes (some 4096) [0xAA]))
      [.dc .low, .xfer [0x24] .ok, .dc .high] [0xAA] [] := by unfold carriedOut; decide

theorem witness_RepeatByteSendsCopies :
    carriedOut cfgL1 .ready (.dc .high :: List.replicate 3 (.xfer [0xFF] .ok)) [.dc .high, .xfer [0xFF] .ok] [0xFF]
      [.xfer [0xFF] .ok] := by unfold carriedOut; decide

/-- An operation reaches a state with this status. -/
theorem reaches {i : Instr} {s : State} {status : Status}
    (h : (next? i s).map (fun t => t.response.map Response.status) = some (some status)) :
    ∃ t, exec i s = .next t ∧ statusIs t status := by
  simp only [next?] at h
  split at h
  · rename_i t ht
    cases hr : t.response with
    | none => simp [hr] at h
    | some r =>
      simp [hr] at h
      exact ⟨t, ht, r.result, by simp [hr, ← h]⟩
  · simp at h
  · simp at h

theorem witness_BytesSentAreThePayload :
    (good cfgL1 .ready).cfg.wellFormed = true ∧ isSend (.sendCommandWithData 0x24 [0xAA]) ∧
    (∃ t, exec (.sendCommandWithData 0x24 [0xAA]) (good cfgL1 .ready) = .next t ∧ statusIs t .ok) ∧
    ∃ t, exec (.sendCommandWithData 0x24 [0xAA]) (bad cfgL1 .ready 1) = .next t ∧ statusIs t .busError :=
  ⟨by decide, trivial, reaches (by decide), reaches (by decide)⟩

theorem witness_SelectLineAfterASend :
    (∃ t, exec (.sendCommand 0x12) (good cfgL1 .ready) = .next t ∧ statusIs t .ok) ∧
    (∃ t, exec (.sendData [1]) (bad cfgL1 .ready 0) = .next t ∧ statusIs t .busError) ∧
    (∃ t, exec (.sendDataVerbatim []) (good cfgL1 .ready) = .next t ∧ statusIs t .ok) ∧
    (∃ t, exec (.repeatByte 0 0) (good cfgL1 .ready) = .next t ∧ statusIs t .ok) ∧
    (∃ t, exec (.sendCommandWithData 0x24 [1]) (bad cfgL1 .ready 0) = .next t ∧ statusIs t .busError) ∧
    ∃ t, exec (.sendCommandWithData 0x24 [1]) (bad cfgL1 .ready 1) = .next t ∧ statusIs t .busError :=
  ⟨reaches (by decide), reaches (by decide), reaches (by decide), reaches (by decide), reaches (by decide),
    reaches (by decide)⟩

theorem witness_SelectLineIsDrivenBeforeEveryTransfer :
    ∃ t, exec (.updateFrame [0, 0, 0, 0, 0, 2]) (good cfgL1 .ready) = .next t ∧ statusIs t .ok := reaches (by decide)

theorem witness_PanelCapturesBytesMostSignificantBitFirst : wireBits [0x80, 0x01] = wireBits [0x80, 0x01] := rfl

theorem witness_ResetTransitionsAndDuration :
    (∃ t, exec (.reset 2) (good cfgL1 .ready) = .next t ∧ statusIs t .ok) ∧ (good cfgL1 .ready).rst = .driven .high ∧
    { good cfgL1 .ready with rst := .driven .low }.rst = .driven .low ∧
    (∃ t, exec (.reset 0) { good cfgL1 .ready with rst := .driven .low } = .next t ∧ statusIs t .ok) ∧
    (fresh cfgL1 [.err]).session = .uninitialized ∧
    ∃ t, exec .new (fresh cfgL1 [.err]) = .next t ∧ statusIs t .busError :=
  ⟨reaches (by decide), rfl, rfl, reaches (by decide), rfl, reaches (by decide)⟩

theorem witness_DelaysComeFromResetAlone :
    (∃ t, exec .sleep (good cfgL1 .ready) = .next t ∧ statusIs t .ok) ∧ (∀ d : Nat, Instr.sleep ≠ .reset d) ∧
    Instr.sleep ≠ .new ∧ Instr.sleep ≠ .wake := ⟨reaches (by decide), by simp, by simp, by simp⟩

theorem witness_BusErrorAbortsAtTheFailedTransfer :
    (∃ t, exec (.sendData [1, 2]) (bad { cfgL1 with chunkLimit := none } .ready 1) = .next t ∧ statusIs t .busError) ∧
    ∃ t, exec (.updateFrame []) (good cfgL1 .ready) = .next t ∧ ¬ statusIs t .busError := by
  refine ⟨reaches (by decide), ?_⟩
  obtain ⟨t, h, r, hr⟩ := reaches (i := .updateFrame []) (s := good cfgL1 .ready) (status := .rejected) (by decide)
  exact ⟨t, h, by rintro ⟨r', hr'⟩; rw [hr] at hr'; simp at hr'⟩

theorem witness_OperationsThatNeverFail :
    sound (good cfgL1 .sleeping) ∧ neverFails (good cfgL1 .sleeping) (.setPixel (-1) 5 1) ∧
    neverFails (good cfgL1 .sleeping) (.setBackgroundColor 1) ∧ neverFails (good cfgL1 .sleeping) .backgroundColor ∧
    neverFails (good cfgX2 .ready) (.fill 3) ∧ neverFails (good cfgL1 .sleeping) (.reset 0) := by
  refine ⟨⟨by decide, by decide⟩, ?_, ?_, ?_, ?_, trivial⟩ <;>
    simp [neverFails, good, awake, fresh, State.constructed, cfgL1, cfgX2, Config.atReset, Layout.bitDepth]

theorem witness_NewResetsInitialisesAndIsReady :
    (good cfgL1 .uninitialized).session = .uninitialized ∧
    carriedOut cfgL1 .uninitialized (resetEvents 10 ++ sequenceEvents cfgL1 cfgL1.initSeq)
      (resetEvents 10 ++ [.dc .low, .xfer [0x12] .ok, .dc .low]) [0x01] [.dc .high, .xfer [0x27, 0x01] .ok] := by
  exact ⟨rfl, by unfold carriedOut; decide⟩

theorem witness_WakeRepeatsResetAndInitialisation :
    (good cfgL1 .sleeping).session = .sleeping ∧
    carriedOut cfgL1 .sleeping (resetEvents 10 ++ sequenceEvents cfgL1 cfgL1.initSeq)
      (resetEvents 10 ++ [.dc .low]) [0x12] [.dc .low, .xfer [0x01] .ok, .dc .high, .xfer [0x27, 0x01] .ok] := by
  exact ⟨rfl, by unfold carriedOut; decide⟩

/-- The frame operations' hypotheses: `Ready`, and a buffer of `LEN` bytes; and one that is not `LEN` bytes long. -/
theorem witness_frame : (good cfgL1 .ready).session = .ready ∧
    [0, 0, 0, 0, 0, 2].length = (good cfgL1 .ready).cfg.len ∧
    [0, 0, 0, 0, 0].length ≠ (good cfgL1 .ready).cfg.len := by decide

theorem witness_UpdateFrameSendsTheBuffer :
    carriedOut cfgL1 .ready (commandEvents 0x24 ++ dataEvents cfgL1 [0, 0, 0, 0, 0, 2])
      [.dc .low, .xfer [0x24] .ok, .dc .high] [0, 0, 0, 0, 0, 2] [] := by unfold carriedOut; decide

theorem witness_DisplayFrameSendsTheRefreshList :
    carriedOut cfgL1 .ready (sequenceEvents cfgL1 cfgL1.profileOps.refreshSeq) [.dc .low] [0x20] [] := by
  unfold carriedOut; decide

theorem witness_UpdateAndDisplaySendsBoth :
    carriedOut cfgL1 .ready (commandEvents 0x24 ++ dataEvents cfgL1 [0, 0, 0, 0, 0, 2]
        ++ sequenceEvents cfgL1 cfgL1.profileOps.refreshSeq)
      [.dc .low, .xfer [0x24] .ok, .dc .high, .xfer [0, 0, 0, 0, 0, 2] .ok, .dc .low] [0x20] [] := by
  unfold carriedOut; decide

theorem witness_FusedFrameEqualsThePair :
    (∃ u, exec (.updateFrame [0, 0, 0, 0, 0, 2]) (good cfgL1 .ready) = .next u ∧ statusIs u .ok) ∧
    ∃ u, exec (.updateFrame [0, 0, 0, 0, 0, 2]) (bad cfgL1 .ready 1) = .next u ∧ statusIs u .busError :=
  ⟨reaches (by decide), reaches (by decide)⟩

theorem witness_ClearFrameSendsTheBackground :
    (good cfgL1 .ready).cfg.layout.holds (good cfgL1 .ready).background = true ∧
    carriedOut cfgL1 .ready (commandEvents 0x24 ++ .dc .high :: (List.range cfgL1.len).map fun _ => .xfer [0x00] .ok)
      [.dc .low] [0x24] (.dc .high :: List.replicate 6 (.xfer [0x00] .ok)) := by
  exact ⟨by decide, by unfold carriedOut; decide⟩

theorem witness_ClearFrameSendsWhatAFilledBufferHolds :
    cfgL1.layout.colorOfTag 0 = some (good cfgL1 .ready).background ∧
    (∃ t, exec .clearFrame (good cfgL1 .ready) = .next t ∧ statusIs t .ok) ∧
    ∃ u v, exec (.fill 0) (good cfgL1 .ready) = .next u ∧ exec .rawBytes u = .next v ∧
      v.response = some ⟨.ok, .bytes [0, 0, 0, 0, 0, 0]⟩ := by
  refine ⟨by decide, reaches (by decide), _, _, rfl, rfl, by decide⟩

theorem witness_BackgroundIsSetAndRead :
    ((good cfgL1 .ready).session = .ready ∨ (good cfgL1 .ready).session = .sleeping) ∧
    cfgL1.layout.colorOfTag 1 = some (.mono .on) ∧ cfgL1.layout.colorOfTag 2 = none ∧
    cfgX2.layout.colorOfTag 3 = some (.gray .gray2) ∧ cfgX2.layout.colorOfTag 4 = none := by decide

theorem witness_SleepSendsTheSleepList :
    carriedOut cfgL1 .ready (sequenceEvents cfgL1 cfgL1.profileOps.sleepSeq) [.dc .low, .xfer [0x10] .ok, .dc .high]
      [0x01] [] := by unfold carriedOut; decide

theorem witness_PlaneWritesSendTheBuffer :
    (good cfgTwoPlane .ready).session = .ready ∧ [0, 0, 0, 0, 0, 2].length = cfgTwoPlane.len ∧
    cfgTwoPlane.profileOps.planeOps = some ⟨0x10, 0x13⟩ ∧ cfgL1.profileOps.planeOps = none ∧
    carriedOut cfgTwoPlane .ready (commandEvents 0x13 ++ dataEvents cfgTwoPlane [0, 0, 0, 0, 0, 2])
      [.dc .low, .xfer [0x13] .ok, .dc .high] [0, 0, 0, 0, 0, 2] [] := by
  exact ⟨by decide, by decide, by decide, by decide, by unfold carriedOut; decide⟩

theorem witness_SessionMovesOnlyByTheTable :
    (next? .new (good cfgL1 .uninitialized)).map State.session = some .ready ∧
    (next? .wake (good cfgL1 .sleeping)).map State.session = some .ready ∧
    (next? .sleep (good cfgL1 .ready)).map State.session = some .sleeping := by decide

theorem witness_EveryOperationReturnsAnOutcome : sound (good cfgY2 .ready) := ⟨by decide, by decide⟩

theorem witness_ListedWordsDecode : Layout.x2.bitDepth = 2 ∧ Layout.y2.bitDepth = 2 ∧
    (fresh cfgL1 []).cfg.layout.bitDepth = 1 := by decide

/-- Each of the elements of the table of R20 is changed by one of its writers. -/
theorem witness_EachElementHasItsWriters :
    (next? (.setPixel 0 0 1) (fresh cfgL1 [])).map State.fb = some [(0, 0x01)] ∧
    (next? (.setRotation .rotate180) (fresh cfgL1 [])).map State.rotation = some .rotate180 ∧
    (next? (.setBackgroundColor 1) (good cfgL1 .ready)).map State.background = some (.mono .on) ∧
    (next? (.reset 10) (fresh cfgL1 [])).map State.rst = some (.driven .high) ∧
    (next? (.sendData []) (fresh cfgL1 [])).map State.dc = some (.driven .high) ∧
    (next? .sleep (good cfgL1 .ready)).map State.session = some .sleeping ∧
    (next? (.sendData []) (fresh cfgL1 [])).map State.trace = some [.dc .high] := by decide

theorem witness_ConfigurationIsFixedAndTraceGrows :
    (stepped? (presenting (good cfgL1 .ready) ⟨[0x27000000], []⟩)).map (fun t => t.trace.length) = some 10 := by decide

theorem witness_StepKeepsTheInvariant :
    Machine.Invariant (presenting (good cfgL1 .ready) ⟨[0x27000000], []⟩) ∧
    (stepped? (presenting (good cfgL1 .ready) ⟨[0x27000000], []⟩)).isSome = true :=
  ⟨presenting_invariant (awake_invariant _ _ _ (by decide)) _, by decide⟩

theorem witness_RunsNeverStop : Machine.Invariant (good cfgY2 .sleeping) := awake_invariant _ _ _ (by decide)

end Sys2Proof.Tests
end

/-! ## The scope: what a step can do, and what every step keeps (00_scope.md)

`step_cases` says once what a step can do, `exec_planned` what an operation can do to the wires; the invariant's step
lemma, the completion of every operation and the run that never stops are read off them. -/

namespace Sys2Proof

/-! ### The geometry of a well-formed configuration -/

/-- What R10 of 00_scope.md asks of the geometry. -/
theorem Config.geometry_of_wellFormed {c : Config} (h : c.wellFormed = true) :
    1 ≤ c.width ∧ 1 ≤ c.height ∧ c.len < 2 ^ 32 ∧ ((c.layout = .x2 ∨ c.layout = .y2) → c.width % 8 = 0) ∧
      (c.layout = .y2 → c.height % 8 = 0) := by
  simp only [Config.wellFormed, Bool.and_eq_true, Bool.or_eq_true, decide_eq_true_eq, beq_iff_eq, bne_iff_ne] at h
  obtain ⟨⟨⟨⟨⟨⟨⟨⟨⟨⟨hw, hh⟩, -⟩, -⟩, hlen⟩, hwidth⟩, hheight⟩, -⟩, -⟩, -⟩, -⟩ := h
  refine ⟨hw, hh, hlen, fun hl => hwidth.resolve_left ?_, fun hl => hheight.resolve_left (not_not_intro hl)⟩
  rcases hl with hl | hl <;> simp [hl]

end Sys2Proof

namespace Sys2Proof.Machine

open Sys2Proof.Claims

/-- A point inside the logical area has its device coordinates in the native area (40_resolver.md R101, R102). -/
theorem devicePoint_lt {c : Config} {rot : Rotation} {x y : Int} {p : Nat × Nat}
    (h : devicePoint c rot x y = some p) : p.1 < c.width ∧ p.2 < c.height := by
  unfold devicePoint at h
  split at h
  · rename_i hin
    obtain rfl := Option.some.inj h
    cases rot <;> simp only [inBounds, logicalWidth, logicalHeight, rotatePoint] at hin ⊢ <;> omega
  · simp at h

/-- Row-major addressing: row `q` of `n`, column `r` of `w`. -/
theorem rowMajor_lt {w n q r : Nat} (hq : q < n) (hr : r < w) : w * q + r < w * n :=
  calc w * q + r < w * q + w := Nat.add_lt_add_left hr _
    _ = w * (q + 1) := (Nat.mul_succ w q).symm
    _ ≤ w * n := Nat.mul_le_mul_left w hq

/-- The byte of a device point, and the second byte of a `Y2` pixel, exist (40_resolver.md R107). -/
theorem packPoint_index_lt {c : Config} {nx ny : Nat} (hc : c.wellFormed = true) (hx : nx < c.width)
    (hy : ny < c.height) :
    (packPoint c nx ny).byteIndex < c.len ∧ (c.layout = .y2 → (packPoint c nx ny).byteIndex + 1 < c.len) := by
  obtain ⟨-, -, -, hw, hh⟩ := Config.geometry_of_wellFormed hc
  cases hl : c.layout with
  | l1 =>
    have hcol : nx / 8 < ceilDiv c.width 8 := by unfold ceilDiv; omega
    simpa [packPoint, Config.len, Layout.bitDepth, hl] using rowMajor_lt hy hcol
  | x2 =>
    have hw := hw (.inl hl)
    have hrow : ceilDiv (c.width * 2) 8 = c.width / 4 := by unfold ceilDiv; omega
    have hcol : nx / 4 < c.width / 4 := by omega
    simpa [packPoint, Config.len, Layout.bitDepth, hl, hrow, Nat.add_comm] using rowMajor_lt hy hcol
  | y2 =>
    have hw := hw (.inr hl)
    have hh := hh hl
    have hband : ny / 8 < c.height / 8 := by omega
    have hlen : ceilDiv (c.width * 2) 8 * c.height = c.width * 2 * (c.height / 8) := by
      have hrow : ceilDiv (c.width * 2) 8 * 8 = c.width * 2 := by unfold ceilDiv; omega
      calc ceilDiv (c.width * 2) 8 * c.height = ceilDiv (c.width * 2) 8 * (8 * (c.height / 8)) := by
            rw [Nat.mul_div_cancel' (Nat.dvd_of_mod_eq_zero hh)]
        _ = c.width * 2 * (c.height / 8) := by rw [← Nat.mul_assoc, hrow]
    have hsecond : c.width * 2 * (ny / 8) + (nx * 2 + 1) < c.width * 2 * (c.height / 8) :=
      rowMajor_lt hband (by omega)
    simp only [packPoint, Config.len, Layout.bitDepth, hl, hlen]
    omega

/-! ### A byte access and a pixel write inside the framebuffer -/

/-- A pixel write inside the native area never faults (20_memory.md R52). -/
theorem State.writePixel_total {s : State} (color : ColorValue) {nx ny : Nat} (hc : s.cfg.wellFormed = true)
    (hx : nx < s.cfg.width) (hy : ny < s.cfg.height) : ∃ t, s.writePixel color nx ny = .ok t := by
  obtain ⟨hfirst, hsecond⟩ := packPoint_index_lt hc hx hy
  unfold State.writePixel
  cases hl : s.cfg.layout with
  | l1 => simp [bind, Except.bind, State.memRead_of_lt hfirst, State.memWrite_of_lt _ hfirst]
  | x2 => simp [bind, Except.bind, State.memRead_of_lt hfirst, State.memWrite_of_lt _ hfirst]
  | y2 => simp [bind, Except.bind, State.memRead_of_lt, State.memWrite_of_lt, hfirst, hsecond hl]

/-! ### The acts of the bus operations -/

/-- Acts on the bus alone, in phases: a drive of the select line, then the transfers made under it (42_bus_transport.md
R141, R150). -/
inductive BusPhases : List Act → Prop where
  | nil : BusPhases []
  | phase (v : Level) (chunks : List (List Byte)) {rest : List Act} (h : BusPhases rest) :
      BusPhases (.setDC v :: (chunks.map .xfer ++ rest))

theorem BusPhases.single (v : Level) (chunks : List (List Byte)) : BusPhases (.setDC v :: chunks.map .xfer) := by
  simpa using BusPhases.phase v chunks .nil

theorem BusPhases.append {a b : List Act} (ha : BusPhases a) (hb : BusPhases b) : BusPhases (a ++ b) := by
  induction ha with
  | nil => exact hb
  | phase v chunks _ ih => simpa using BusPhases.phase v chunks ih

theorem busPhases_sendCommandActs (opcode : Byte) : BusPhases (sendCommandActs opcode) := .single .low [[opcode]]

theorem busPhases_sendDataActs (limit : Option Nat) (bytes : List Byte) : BusPhases (sendDataActs limit bytes) :=
  .single .high _

theorem busPhases_sendDataVerbatimActs (bytes : List Byte) : BusPhases (sendDataVerbatimActs bytes) :=
  .single .high [bytes]

theorem busPhases_sendCommandWithDataActs (limit : Option Nat) (opcode : Byte) (bytes : List Byte) :
    BusPhases (sendCommandWithDataActs limit opcode bytes) :=
  (busPhases_sendCommandActs opcode).append (busPhases_sendDataActs limit bytes)

theorem busPhases_repeatByteActs (value : Byte) (count : Nat) : BusPhases (repeatByteActs value count) := by
  simpa [repeatByteActs] using BusPhases.single .high (List.replicate count [value])

theorem busPhases_runSeqActs (limit : Option Nat) (seq : List ProfileCommand) : BusPhases (runSeqActs limit seq) := by
  induction seq with
  | nil => exact .nil
  | cons p seq ih =>
    refine BusPhases.append ?_ ih
    unfold profileCommandActs
    split
    · exact busPhases_sendCommandActs _
    · exact busPhases_sendCommandWithDataActs _ _ _

theorem busPhases_clearFrameActs (c : Config) (color : ColorValue) : BusPhases (clearFrameActs c color) := by
  refine (busPhases_sendCommandActs _).append ?_
  simpa [Function.comp_def] using BusPhases.single .high ((List.range c.len).map fun i => [c.fillByte color i])

/-- The bus operations drive no reset line and make no delay (42_bus_transport.md R150). -/
theorem BusPhases.mem {acts : List Act} (h : BusPhases acts) {a : Act} (ha : a ∈ acts) :
    (∃ v, a = .setDC v) ∨ ∃ bs, a = .xfer bs := by
  induction h with
  | nil => simp at ha
  | phase v chunks _ ih =>
    rcases List.mem_cons.1 ha with rfl | ha
    · exact .inl ⟨v, rfl⟩
    · rcases List.mem_append.1 ha with ha | ha
      · obtain ⟨bs, -, rfl⟩ := List.mem_map.1 ha
        exact .inr ⟨bs, rfl⟩
      · exact ih ha

/-- A line driven before stays driven while transfers are made. -/
theorem selectFirst_transfers (v : Level) (chunks : List (List Byte)) (evs : List Event) :
    selectFirst (.driven v) ((chunks.map Act.xfer).map Act.event ++ evs) = selectFirst (.driven v) evs := by
  induction chunks with
  | nil => rfl
  | cons bs chunks ih => simpa [selectFirst, Act.event] using ih

/-- A trace that needs no line driven before it needs none after a drive either. -/
theorem selectFirst_of_undriven {evs : List Event} (h : selectFirst .undriven evs = true) (l : Line) :
    selectFirst l evs = true := by
  induction evs with
  | nil => rfl
  | cons e evs ih => cases e <;> simp_all [selectFirst]

/-- Every transfer of bus phases is made under a driven select line. -/
theorem BusPhases.selectFirst_undriven {acts : List Act} (h : BusPhases acts) :
    selectFirst .undriven (acts.map Act.event) = true := by
  induction h with
  | nil => rfl
  | phase v chunks _ ih =>
    rw [List.map_cons, List.map_append]
    exact (selectFirst_transfers v chunks _).trans (selectFirst_of_undriven ih _)

/-- Ending the acts at a failed transfer leaves the select line driven first. -/
theorem selectFirst_failed {l : Line} {pre post : List Act} {bs : List Byte}
    (h : selectFirst l ((pre ++ .xfer bs :: post).map Act.event) = true) :
    selectFirst l (pre.map Act.event ++ [.xfer bs .err]) = true := by
  simp only [List.map_append, List.map_cons, Act.event, selectFirst_append, selectFirst, Bool.and_eq_true] at h ⊢
  exact ⟨h.1, h.2.1, trivial⟩

/-- Events that drive no reset line leave it. -/
theorem rstAfter_of_no_rst {evs : List Event} (h : ∀ e ∈ evs, ∀ v, e ≠ .rst v) (l : Line) : rstAfter l evs = l := by
  induction evs with
  | nil => rfl
  | cons e evs ih =>
    have ih := ih fun e' he' => h e' (List.mem_cons_of_mem _ he')
    cases e with
    | rst v => exact absurd rfl (h _ List.mem_cons_self v)
    | dc v => exact ih
    | xfer bs r => exact ih
    | delay n => exact ih

theorem BusPhases.event_ne_rst {acts : List Act} (h : BusPhases acts) {a : Act} (ha : a ∈ acts) (v : Level) :
    a.event ≠ .rst v := by
  rcases h.mem ha with ⟨_, rfl⟩ | ⟨_, rfl⟩ <;> simp [Act.event]

/-! ### The acts of an operation: at most one reset pulse, then the bus -/

/-- The acts of the reset pulse an operation begins with, if it begins with one (43_reset_timer.md R171). -/
def pulseActs : Option Nat → List Act
  | none => []
  | some durationLowMs => resetActs durationLowMs

theorem xfer_notMem_pulseActs (pulse : Option Nat) (bs : List Byte) : Act.xfer bs ∉ pulseActs pulse := by
  cases pulse <;> simp [pulseActs, resetActs]

theorem selectFirst_pulseActs (pulse : Option Nat) (l : Line) (evs : List Event) :
    selectFirst l ((pulseActs pulse).map Act.event ++ evs) = selectFirst l evs := by cases pulse <;> rfl

/-- The reset line after a pulse is high (43_reset_timer.md R172). -/
theorem rstAfter_pulseActs (pulse : Option Nat) (l : Line) :
    rstAfter l ((pulseActs pulse).map Act.event) = if pulse = none then l else .driven .high := by cases pulse <;> rfl

/-- A transfer of an operation comes after its whole pulse. -/
theorem eq_pulseActs_append {pulse : Option Nat} {sends pre post : List Act} {bs : List Byte}
    (h : pulseActs pulse ++ sends = pre ++ .xfer bs :: post) :
    ∃ mid, pre = pulseActs pulse ++ mid ∧ sends = mid ++ .xfer bs :: post := by
  rcases List.append_eq_append_iff.1 h with ⟨mid, hpre, hsends⟩ | ⟨tail, hpulse, htail⟩
  · exact ⟨mid, hpre, hsends⟩
  · cases tail with
    | nil => exact ⟨[], by simpa using hpulse.symm, by simpa using htail.symm⟩
    | cons a tail =>
      obtain ⟨rfl, -⟩ := List.cons.inj htail
      exact absurd (by simp [hpulse]) (xfer_notMem_pulseActs pulse bs)

/-- `t` is what an operation on the wires makes of `s`: a reset pulse or none, then phases on the bus. Where no pulse is
made, a session after the operation is one there was before (44_session.md R181). -/
def Planned (s t : State) : Prop :=
  ∃ (pulse : Option Nat) (sends : List Act) (after : Session), t = s.perform (pulseActs pulse ++ sends) after ∧
    BusPhases sends ∧ (pulse = none → after ≠ .uninitialized → s.session ≠ .uninitialized)

/-- Bus phases alone, after which the session is as before. -/
theorem Planned.bus (s : State) {sends : List Act} (h : BusPhases sends) : Planned s (s.perform sends s.session) :=
  ⟨none, sends, s.session, rfl, h, fun _ => id⟩

/-- The pulse alone, after which the session is as before (43_reset_timer.md R171). -/
theorem Planned.reset (s : State) (durationLowMs : Nat) :
    Planned s (s.perform (resetActs durationLowMs) s.session) :=
  ⟨some durationLowMs, [], s.session, by rw [List.append_nil]; rfl, .nil, fun _ => id⟩

/-- Bus phases alone, in a session. -/
theorem Planned.inSession {s : State} {sends : List Act} (h : BusPhases sends) (hs : s.session = .ready)
    (after : Session) : Planned s (s.perform sends after) :=
  ⟨none, sends, after, rfl, h, fun _ _ => by simp [hs]⟩

/-- The body NEW and WAKE share (44_session.md R182, R183). -/
theorem Planned.initialise (s : State) (after : Session) : Planned s (s.perform (initialiseActs s.cfg) after) :=
  ⟨some s.cfg.resetLowMs, _, after, rfl, busPhases_runSeqActs _ _, by simp⟩

/-- All that an operation on the wires can do, by the events it leaves: the select line is driven before every transfer,
the reset line is left as the pulse leaves it, and the session is the old one or the operation's. -/
theorem Planned.events {s t : State} (h : Planned s t) :
    ∃ (evs : List Event) (after : Session) (status : Status),
      t = ({ s.after evs with session := after }).answer status .nothing ∧ selectFirst .undriven evs = true ∧
      ((rstAfter s.rst evs = s.rst ∧ (after ≠ .uninitialized → s.session ≠ .uninitialized)) ∨
        rstAfter s.rst evs = .driven .high) := by
  obtain ⟨pulse, sends, after, rfl, hsends, hsession⟩ := h
  have hselect : selectFirst .undriven ((pulseActs pulse ++ sends).map Act.event) = true := by
    rw [List.map_append, selectFirst_pulseActs]
    exact hsends.selectFirst_undriven
  have hrst : ∀ bus : List Event, (∀ e ∈ bus, ∀ v, e ≠ .rst v) →
      rstAfter s.rst ((pulseActs pulse).map Act.event ++ bus) = if pulse = none then s.rst else .driven .high := by
    intro bus hbus
    rw [rstAfter_append, rstAfter_of_no_rst hbus, rstAfter_pulseActs]
  rcases s.perform_cases (pulseActs pulse ++ sends) after with ⟨-, hok⟩ | ⟨pre, bs, post, hacts, -, -, herr⟩
  · have hrst := hrst (sends.map Act.event) (List.forall_mem_map.2 fun _ ha => hsends.event_ne_rst ha)
    rw [← List.map_append] at hrst
    refine ⟨_, after, .ok, hok, hselect, ?_⟩
    by_cases hp : pulse = none
    · exact .inl ⟨by rw [hrst, if_pos hp], hsession hp⟩
    · exact .inr (by rw [hrst, if_neg hp])
  · obtain ⟨mid, rfl, rfl⟩ := eq_pulseActs_append hacts
    have hrst := hrst (mid.map Act.event ++ [.xfer bs .err]) fun e he => by
      rcases List.mem_append.1 he with he | he
      · obtain ⟨a, ha, rfl⟩ := List.mem_map.1 he
        exact hsends.event_ne_rst (List.mem_append_left _ ha)
      · simp [List.mem_singleton.1 he]
    rw [← List.append_assoc, ← List.map_append] at hrst
    refine ⟨_, s.session, .busError, herr, selectFirst_failed (hacts ▸ hselect), ?_⟩
    by_cases hp : pulse = none
    · exact .inl ⟨by rw [hrst, if_pos hp], id⟩
    · exact .inr (by rw [hrst, if_neg hp])

/-! ### What one operation can do -/

theorem execSetPixel_answered {x y : Int} {tag : ColorTag} {s t : State} (h : execSetPixel x y tag s = .next t) :
    Answered s t := by
  unfold execSetPixel at h
  split at h
  · exact Host.Outcome.next.inj h ▸ .plain s .rejected .nothing (by simp)
  · split at h
    · exact Host.Outcome.next.inj h ▸ .plain s .ok .nothing (by simp)
    · split at h
      · rename_i u hu
        obtain ⟨heq, hwf⟩ := State.writePixel_ok hu
        obtain rfl := Host.Outcome.next.inj h
        exact ⟨u, .ok, .nothing, rfl, by simp, by rw [heq], hwf, by rw [heq]; exact id⟩
      · simp at h

theorem execFill_answered {tag : ColorTag} {s t : State} (h : execFill tag s = .next t) : Answered s t := by
  unfold execFill at h
  split at h <;> obtain rfl := Host.Outcome.next.inj h
  · exact .plain s .rejected .nothing (by simp)
  · exact ⟨_, .ok, .nothing, rfl, by simp, rfl, fun _ => Memory.fill_wf _, id⟩

theorem execSetBackgroundColor_answered {tag : ColorTag} {s t : State} (h : execSetBackgroundColor tag s = .next t) :
    Answered s t := by
  unfold execSetBackgroundColor at h
  split at h
  · split at h <;> obtain rfl := Host.Outcome.next.inj h
    · exact .plain s .rejected .nothing (by simp)
    · exact ⟨_, .ok, .nothing, rfl, by simp, rfl, id, fun _ => Layout.holds_colorOfTag ‹_›⟩
  · exact Host.Outcome.next.inj h ▸ .plain s .rejected .nothing (by simp)

/-- A plane write is refused, or sends its frame in a session (44_session.md R191, R192). -/
theorem State.planeWrite_cases (s : State) (op : PlaneOps → Byte) (buffer : List Byte) :
    Answered s (s.planeWrite op buffer) ∨ Planned s (s.planeWrite op buffer) := by
  unfold State.planeWrite
  split
  · exact .inl (.plain s .rejected .nothing (by simp))
  · split
    · exact .inr (.inSession (busPhases_sendCommandWithDataActs _ _ _) (And.left ‹_›) _)
    · exact .inl (.plain s .rejected .nothing (by simp))

/-- An operation that runs under a condition and is refused otherwise (44_session.md R181). -/
theorem guarded_planned {p : Prop} [Decidable p] {s t u : State} (hu : p → Planned s u)
    (h : (if p then .next u else .next s.reject : Host.Outcome State Fault Refusal) = .next t) :
    Answered s t ∨ Planned s t := by
  split at h <;> obtain rfl := Host.Outcome.next.inj h
  · exact .inr (hu ‹_›)
  · exact .inl (.plain s .rejected .nothing (by simp))

/-- `exec_cases` with the acts said: an operation answers without touching a wire, or makes its reset pulse and its
phases on the bus. -/
theorem exec_planned {i : Instr} {s t : State} (h : exec i s = .next t) : Answered s t ∨ Planned s t := by
  cases i with
  | resolve x y => exact .inl (Host.Outcome.next.inj h ▸ .plain s .ok _ (by simp))
  | setPixel x y color => exact .inl (execSetPixel_answered h)
  | fill color => exact .inl (execFill_answered h)
  | setRotation rot =>
    obtain rfl := Host.Outcome.next.inj h
    exact .inl ⟨_, .ok, .nothing, rfl, by simp, rfl, id, id⟩
  | getRotation => exact .inl (Host.Outcome.next.inj h ▸ .plain s .ok _ (by simp))
  | rawBytes => exact .inl (Host.Outcome.next.inj h ▸ .plain s .ok _ (by simp))
  | sendCommand opcode => exact .inr (Host.Outcome.next.inj h ▸ .bus s (busPhases_sendCommandActs opcode))
  | sendData bytes => exact .inr (Host.Outcome.next.inj h ▸ .bus s (busPhases_sendDataActs _ bytes))
  | sendDataVerbatim bytes =>
    simp only [exec, execSendDataVerbatim] at h
    split at h <;> obtain rfl := Host.Outcome.next.inj h
    · exact .inl (.plain s .rejected .nothing (by simp))
    · exact .inr (.bus s (busPhases_sendDataVerbatimActs bytes))
  | sendCommandWithData opcode bytes =>
    exact .inr (Host.Outcome.next.inj h ▸ .bus s (busPhases_sendCommandWithDataActs _ opcode bytes))
  | repeatByte value count => exact .inr (Host.Outcome.next.inj h ▸ .bus s (busPhases_repeatByteActs value count))
  | reset durationLowMs => exact .inr (Host.Outcome.next.inj h ▸ .reset s durationLowMs)
  | new => exact guarded_planned (fun _ => .initialise s .ready) h
  | updateFrame buffer =>
    exact guarded_planned (fun hs => .inSession (busPhases_sendCommandWithDataActs _ _ buffer) hs.1 _) h
  | displayFrame => exact guarded_planned (fun hs => .inSession (busPhases_runSeqActs _ _) hs _) h
  | updateAndDisplayFrame buffer =>
    exact guarded_planned (fun hs => .inSession
      ((busPhases_sendCommandWithDataActs _ _ buffer).append (busPhases_runSeqActs _ _)) hs.1 _) h
  | clearFrame => exact guarded_planned (fun hs => .inSession (busPhases_clearFrameActs _ _) hs.1 _) h
  | setBackgroundColor color => exact .inl (execSetBackgroundColor_answered h)
  | backgroundColor =>
    simp only [exec, execBackgroundColor] at h
    split at h <;> obtain rfl := Host.Outcome.next.inj h
    · exact .inl (.plain s .ok _ (by simp))
    · exact .inl (.plain s .rejected .nothing (by simp))
  | sleep => exact guarded_planned (fun hs => .inSession (busPhases_runSeqActs _ _) hs _) h
  | wake => exact guarded_planned (fun _ => .initialise s .ready) h
  | updateAchromaticFrame buffer => exact Host.Outcome.next.inj h ▸ s.planeWrite_cases _ buffer
  | updateChromaticFrame buffer => exact Host.Outcome.next.inj h ▸ s.planeWrite_cases _ buffer

/-- What every operation leaves: an outcome returned to the caller, the configuration, and a trace that has only grown
(10_state.md R35, R40; 30_encoding.md R82). -/
theorem exec_outcome {i : Instr} {s t : State} (h : exec i s = .next t) :
    t.busy = false ∧ (∃ response, t.response = some response) ∧ t.cfg = s.cfg ∧ s.trace <+: t.trace := by
  rcases exec_planned h with ⟨u, status, result, rfl, -, hu, -, -⟩ | hp
  · rw [hu]
    exact ⟨rfl, ⟨_, rfl⟩, rfl, List.prefix_rfl⟩
  · obtain ⟨evs, after, status, rfl, -, -⟩ := hp.events
    exact ⟨rfl, ⟨_, rfl⟩, rfl, List.prefix_append _ _⟩

/-- SET_PIXEL in a sound state has a next state: the index it forms exists (40_resolver.md R107). -/
theorem execSetPixel_total (x y : Int) (tag : ColorTag) {s : State} (hs : sound s) :
    ∃ t, execSetPixel x y tag s = .next t := by
  unfold execSetPixel
  cases s.cfg.layout.colorOfTag tag with
  | none => exact ⟨_, rfl⟩
  | some color =>
    cases hp : devicePoint s.cfg s.rotation x y with
    | none => exact ⟨_, rfl⟩
    | some p =>
      obtain ⟨hx, hy⟩ := devicePoint_lt hp
      obtain ⟨t, ht⟩ := State.writePixel_total color hs.1 hx hy
      exact ⟨t.succeed .nothing, by simp only [ht]⟩

/-- In a sound state every operation has a next state (00_scope.md R15). -/
theorem exec_total (i : Instr) {s : State} (hs : sound s) : ∃ t, exec i s = .next t := by
  have guarded (p : Prop) [Decidable p] (a b : State) :
      ∃ t, (if p then .next a else .next b : Host.Outcome State Fault Refusal) = .next t :=
    ⟨if p then a else b, (apply_ite _ p a b).symm⟩
  cases i with
  | setPixel x y color => exact execSetPixel_total x y color hs
  | fill color =>
    simp only [exec, execFill]
    split <;> exact ⟨_, rfl⟩
  | setBackgroundColor color =>
    simp only [exec, execSetBackgroundColor]
    repeat' split
    all_goals exact ⟨_, rfl⟩
  | sendDataVerbatim bytes => exact guarded _ _ _
  | new => exact guarded _ _ _
  | updateFrame buffer => exact guarded _ _ _
  | displayFrame => exact guarded _ _ _
  | updateAndDisplayFrame buffer => exact guarded _ _ _
  | clearFrame => exact guarded _ _ _
  | backgroundColor => exact guarded _ _ _
  | sleep => exact guarded _ _ _
  | wake => exact guarded _ _ _
  | resolve | setRotation | getRotation | rawBytes | sendCommand | sendData | sendCommandWithData | repeatByte | reset
  | updateAchromaticFrame | updateChromaticFrame => exact ⟨_, rfl⟩

/-! ### The invariant through an operation -/

/-- The invariant of a block with an operation in flight: every clause but the one on `BUSY`. -/
def InvariantInFlight (s : State) : Prop := Invariant { s with busy := false }

theorem Invariant.accept {s : State} (h : Invariant s) (rest : List Request) : InvariantInFlight (s.accept rest) :=
  ⟨h.config, h.framebuffer, h.background, rfl, h.selectLine, h.resetLine, h.resetReleased, h.sessionReset, h.selected,
    h.counted⟩

/-- Returning an outcome clears `BUSY`, and with it the invariant is whole again. -/
theorem InvariantInFlight.answer {s : State} (h : InvariantInFlight s) (status : Status) (result : Result) :
    Invariant (s.answer status result) :=
  ⟨h.config, h.framebuffer, h.background, rfl, h.selectLine, h.resetLine, h.resetReleased, h.sessionReset, h.selected,
    h.counted⟩

theorem InvariantInFlight.answered {s t : State} (h : InvariantInFlight s) (ht : Answered s t) : Invariant t := by
  obtain ⟨u, status, result, rfl, -, hu, hfb, hbackground⟩ := ht
  have hfb := hfb h.framebuffer
  have hbackground := hbackground h.background
  rw [hu]
  exact ⟨h.config, hfb, hbackground, rfl, h.selectLine, h.resetLine, h.resetReleased, h.sessionReset, h.selected,
    h.counted⟩

/-- Events that drive the select line before their transfers, and that leave the reset line as it was or released, keep
the invariant; a session may begin where the line has been released. -/
theorem InvariantInFlight.after {s : State} (h : InvariantInFlight s) {evs : List Event} {after : Session}
    (hselect : selectFirst .undriven evs = true)
    (hreset : (rstAfter s.rst evs = s.rst ∧ (after ≠ .uninitialized → s.session ≠ .uninitialized)) ∨
      rstAfter s.rst evs = .driven .high) :
    InvariantInFlight { s.after evs with session := after } where
  config := h.config
  framebuffer := h.framebuffer
  background := h.background
  idle := rfl
  selectLine := by
    show dcAfter s.dc evs = dcAfter .undriven (s.trace ++ evs)
    rw [dcAfter_append, ← h.selectLine]
  resetLine := by
    show rstAfter s.rst evs = rstAfter .undriven (s.trace ++ evs)
    rw [rstAfter_append, ← h.resetLine]
  resetReleased := by
    show rstAfter s.rst evs ≠ .driven .low
    rcases hreset with ⟨hrst, -⟩ | hrst <;> rw [hrst]
    · exact h.resetReleased
    · simp
  sessionReset := by
    show after ≠ .uninitialized → rstAfter s.rst evs = .driven .high
    rcases hreset with ⟨hrst, hsession⟩ | hrst <;> rw [hrst]
    · exact fun ha => h.sessionReset (hsession ha)
    · exact fun _ => rfl
  selected := by
    show selectFirst .undriven (s.trace ++ evs) = true
    rw [selectFirst_append, Bool.and_eq_true]
    exact ⟨h.selected, selectFirst_of_undriven hselect _⟩
  counted := by
    show s.transfers + transferCount evs = transferCount (s.trace ++ evs)
    rw [transferCount_append, ← h.counted]

/-- Every operation returns with the invariant whole. -/
theorem exec_invariant {i : Instr} {s t : State} (hs : InvariantInFlight s) (h : exec i s = .next t) : Invariant t := by
  rcases exec_planned h with ha | hp
  · exact hs.answered ha
  · obtain ⟨evs, after, status, rfl, hselect, hreset⟩ := hp.events
    exact (hs.after hselect hreset).answer _ _

theorem InvariantInFlight.sound {s : State} (h : InvariantInFlight s) : sound s := ⟨h.config, h.framebuffer⟩

/-! ### One step -/

/-- Which request the port of a block with a well-formed configuration accepts (10_state.md R35). -/
theorem acceptance_cases {s : State} (hc : s.cfg.wellFormed = true) :
    s.acceptance = .idle ∨ ∃ rest, s.acceptance = .turnedAway (s.accept rest).reject ∨
      ∃ i, s.acceptance = .run i (s.accept rest) := by
  rw [State.acceptance, if_pos hc]
  cases s.busy with
  | true => exact .inl rfl
  | false =>
    cases s.requests with
    | nil => exact .inl rfl
    | cons r rest =>
      refine .inr ⟨rest, ?_⟩
      cases hd : decodeRequest r with
      | error e => exact .inl (by simp only [hd, Bool.false_eq_true, if_false])
      | ok i => exact .inr ⟨i, by simp only [hd, Bool.false_eq_true, if_false]⟩

/-- All that a step of a block with a well-formed configuration can do: nothing, turn the oldest request away, or run the
instruction it decodes to. -/
theorem step_cases {s : State} (hc : s.cfg.wellFormed = true) :
    step s = .next s ∨ ∃ rest, step s = .next (s.accept rest).reject ∨ ∃ i, step s = exec i (s.accept rest) := by
  unfold step
  rcases acceptance_cases hc with h | ⟨rest, h | ⟨i, h⟩⟩ <;> rw [h]
  · exact .inl rfl
  · exact .inr ⟨rest, .inl rfl⟩
  · exact .inr ⟨rest, .inr ⟨i, rfl⟩⟩

/-- The port refuses a block with an ill-formed configuration (00_scope.md R10). -/
theorem step_illFormed {s : State} (hc : s.cfg.wellFormed ≠ true) : step s = .refused .illFormedConfiguration := by
  have h : s.acceptance = .refused .illFormedConfiguration := if_neg hc
  unfold step
  rw [h]

theorem wellFormed_of_step {s t : State} (h : step s = .next t) : s.cfg.wellFormed = true := by
  by_contra hc
  rw [step_illFormed hc] at h
  cases h

/-- A step of a block that meets the invariant has a next state, which meets it too. -/
theorem step_invariant_total {s : State} (hs : Invariant s) : ∃ t, step s = .next t ∧ Invariant t := by
  rcases step_cases hs.config with h | ⟨rest, h | ⟨i, h⟩⟩
  · exact ⟨s, h, hs⟩
  · exact ⟨_, h, (hs.accept rest).answer _ _⟩
  · obtain ⟨t, ht⟩ := exec_total i (hs.accept rest).sound
    exact ⟨t, h.trans ht, exec_invariant (hs.accept rest) ht⟩

/-- A run goes on where its first step has a next state from which it goes on. -/
theorem SafeRun.succ {k : Nat} {s t : State} (h : step s = .next t) (ht : SafeRun k t) : SafeRun (k + 1) s := by
  obtain ⟨u, hu⟩ := ht
  refine ⟨u, ?_⟩
  have hstep : core.step s = .next t := h
  simp only [Host.Core.run, hstep]
  exact hu

end Sys2Proof.Machine

namespace Sys2Proof.Proofs

open Sys2Proof.Machine Sys2Proof.Claims

/-- Settles O59: an operation answers without touching a wire, or leaves events that drive the select line before their
transfers and release the reset line; either way the invariant is whole again when the outcome is returned. -/
theorem stepKeepsTheInvariant : Obligations.StepKeepsTheInvariant := by
  intro s t hs h
  obtain ⟨u, hu, hinv⟩ := step_invariant_total hs
  obtain rfl := Host.Outcome.next.inj (hu.symm.trans h)
  exact hinv

/-- Settles O56: in a sound state every operation has a next state, and what an operation leaves is an outcome. -/
theorem everyOperationReturnsAnOutcome : Obligations.EveryOperationReturnsAnOutcome := by
  intro i s hs
  obtain ⟨t, ht⟩ := exec_total i hs
  obtain ⟨hbusy, ⟨⟨status, result⟩, hresponse⟩, -, -⟩ := exec_outcome ht
  refine ⟨t, ht, hbusy, ?_⟩
  cases status with
  | ok => exact .inl ⟨result, hresponse⟩
  | busError => exact .inr (.inl ⟨result, hresponse⟩)
  | rejected => exact .inr (.inr ⟨result, hresponse⟩)

/-- Settles O58: a step accepts, which writes neither, and then turns away or runs an operation. -/
theorem configurationIsFixedAndTraceGrows : Obligations.ConfigurationIsFixedAndTraceGrows := by
  intro s t h
  rcases step_cases (wellFormed_of_step h) with hs | ⟨rest, hs | ⟨i, hs⟩⟩
  · obtain rfl := Host.Outcome.next.inj (hs.symm.trans h)
    exact ⟨rfl, List.prefix_rfl⟩
  · obtain rfl := Host.Outcome.next.inj (hs.symm.trans h)
    exact ⟨rfl, List.prefix_rfl⟩
  · obtain ⟨-, -, hcfg, htrace⟩ := exec_outcome (hs.symm.trans h)
    exact ⟨hcfg, htrace⟩

/-- Settles O60, by induction on the number of steps. -/
theorem runsNeverStop : Obligations.RunsNeverStop := by
  intro k
  induction k with
  | zero => exact fun s _ => ⟨s, rfl⟩
  | succ k ih =>
    intro s hs
    obtain ⟨t, ht, hinv⟩ := step_invariant_total hs
    exact .succ ht (ih t hinv)

/-- Settles O10: a well-formed configuration meets every constraint, so one that breaks a constraint is not well
formed. -/
theorem illFormedConfigurationIsRefused : Obligations.IllFormedConfigurationIsRefused := by
  intro s hgeometry
  have hc : s.cfg.wellFormed ≠ true := fun h => hgeometry (Config.geometry_of_wellFormed h)
  exact ⟨if_neg hc, step_illFormed hc⟩

end Sys2Proof.Proofs

/-! ## The state: who writes what, the request port, and the laws of the colors (10_state.md)

`writtenBy` is the table of R20 read by operation, and `exec_onlyWrites` says that the model obeys it; the columns of
the table are read off it. -/

namespace Sys2Proof.Machine

open Sys2Proof.Claims

/-! ### The elements of the state and their writers -/

/-- The elements of R20 but `BUSY`, which the request port alone writes, and the two fields of the model that no operation
writes. -/
inductive Element where
  | fb
  | rotation
  | dc
  | rst
  | background
  | session
  | trace
  | cfg
  | requests

/-- The element is in `t` what it is in `s`. -/
def Element.kept (s t : State) : Element → Prop
  | .fb => t.fb = s.fb
  | .rotation => t.rotation = s.rotation
  | .dc => t.dc = s.dc
  | .rst => t.rst = s.rst
  | .background => t.background = s.background
  | .session => t.session = s.session
  | .trace => t.trace = s.trace
  | .cfg => t.cfg = s.cfg
  | .requests => t.requests = s.requests

/-- The elements an operation may write: the table of 10_state.md R20, one row per operation. -/
def writtenBy : Instr → List Element
  | .setPixel _ _ _ | .fill _ => [.fb]
  | .setRotation _ => [.rotation]
  | .setBackgroundColor _ => [.background]
  | .sendCommand _ | .sendData _ | .sendDataVerbatim _ | .sendCommandWithData _ _ | .repeatByte _ _ => [.dc, .trace]
  | .updateFrame _ | .displayFrame | .updateAndDisplayFrame _ | .clearFrame | .updateAchromaticFrame _
  | .updateChromaticFrame _ => [.dc, .trace]
  | .sleep => [.dc, .session, .trace]
  | .reset _ => [.rst, .trace]
  | .new | .wake => [.dc, .rst, .session, .trace]
  | .resolve _ _ | .getRotation | .rawBytes | .backgroundColor => []

/-- Every element but those listed is in `t` what it is in `s`. -/
def OnlyWrites (es : List Element) (s t : State) : Prop := ∀ e, e ∉ es → e.kept s t

theorem OnlyWrites.mem {es : List Element} {s t : State} (h : OnlyWrites es s t) {e : Element} (he : ¬ e.kept s t) :
    e ∈ es := by
  by_contra hn
  exact he (h e hn)

/-- Returning an outcome writes no element (10_state.md R34). -/
theorem OnlyWrites.answer (es : List Element) (s : State) (status : Status) (result : Result) :
    OnlyWrites es s (s.answer status result) := by
  intro e _
  cases e <;> rfl

/-- An operation that writes the framebuffer and answers (41_pixelbuffer.md R120, R125). -/
theorem OnlyWrites.fb (s : State) (fb : Memory) (status : Status) (result : Result) :
    OnlyWrites [.fb] s (({ s with fb := fb } : State).answer status result) := by
  intro e he
  cases e with
  | fb => simp at he
  | rotation | dc | rst | background | session | trace | cfg | requests => rfl

/-- An operation that runs under a condition and is refused otherwise (44_session.md R181). -/
theorem OnlyWrites.guarded {es : List Element} {p : Prop} [Decidable p] {s t u : State} (hu : p → OnlyWrites es s u)
    (h : (if p then .next u else .next s.reject : Host.Outcome State Fault Refusal) = .next t) :
    OnlyWrites es s t := by
  split at h <;> obtain rfl := Host.Outcome.next.inj h
  · exact hu ‹_›
  · exact .answer es s .rejected .nothing

/-! ### What operations made of acts write -/

/-- Acts write the lines and the trace, and the operation they make up may move the session. -/
theorem perform_onlyWrites (s : State) (acts : List Act) (after : Session) :
    OnlyWrites [.dc, .rst, .session, .trace] s (s.perform acts after) := by
  obtain ⟨evs, hevs⟩ := runActs_after acts s
  intro e he
  cases e with
  | dc | rst | session | trace => simp at he
  | fb | rotation | background | cfg | requests => simp [Element.kept, State.perform, hevs]

/-- An operation that ends in the session it began in leaves the session, also where it fails. -/
theorem perform_session_self (s : State) (acts : List Act) : (s.perform acts s.session).session = s.session := by
  obtain ⟨evs, hevs⟩ := runActs_after acts s
  simp [State.perform, hevs]

/-- Bus phases never drive the reset line (42_bus_transport.md R150). -/
theorem BusPhases.perform_rst {acts : List Act} (h : BusPhases acts) (s : State) (after : Session) :
    (s.perform acts after).rst = s.rst := by
  rcases s.perform_cases acts after with ⟨-, hok⟩ | ⟨pre, bs, post, rfl, -, -, herr⟩
  · rw [hok]
    exact rstAfter_of_no_rst (List.forall_mem_map.2 fun _ ha => h.event_ne_rst ha) s.rst
  · rw [herr]
    refine rstAfter_of_no_rst (fun e he => ?_) s.rst
    rcases List.mem_append.1 he with he | he
    · obtain ⟨a, ha, rfl⟩ := List.mem_map.1 he
      exact h.event_ne_rst (List.mem_append_left _ ha)
    · simp [List.mem_singleton.1 he]

theorem BusPhases.onlyWrites {acts : List Act} (h : BusPhases acts) (s : State) (after : Session) :
    OnlyWrites [.dc, .session, .trace] s (s.perform acts after) := by
  intro e he
  by_cases hrst : e = .rst
  · exact hrst ▸ h.perform_rst s after
  · exact perform_onlyWrites s acts after e (by simp_all)

/-- Bus phases of an operation that ends in the session it began in. -/
theorem BusPhases.onlyWrites_bus {acts : List Act} (h : BusPhases acts) {s : State} {after : Session}
    (hs : s.session = after) : OnlyWrites [.dc, .trace] s (s.perform acts after) := by
  subst hs
  intro e he
  by_cases hsession : e = .session
  · exact hsession ▸ perform_session_self s acts
  · exact h.onlyWrites s s.session e (by simp_all)

/-- The pulse is on the reset line alone (43_reset_timer.md R171). -/
theorem reset_onlyWrites (s : State) (durationLowMs : Nat) :
    OnlyWrites [.rst, .trace] s (s.perform (resetActs durationLowMs) s.session) := by
  intro e he
  cases e with
  | rst | trace => simp at he
  | fb | rotation | dc | background | session | cfg | requests => rfl

/-! ### What each operation writes -/

theorem execSetPixel_onlyWrites {x y : Int} {tag : ColorTag} {s t : State} (h : execSetPixel x y tag s = .next t) :
    OnlyWrites [.fb] s t := by
  unfold execSetPixel at h
  split at h
  · exact Host.Outcome.next.inj h ▸ .answer _ s .rejected .nothing
  · split at h
    · exact Host.Outcome.next.inj h ▸ .answer _ s .ok .nothing
    · split at h
      · rename_i u hu
        obtain rfl := Host.Outcome.next.inj h
        rw [(State.writePixel_ok hu).1]
        exact .fb s u.fb .ok .nothing
      · simp at h

theorem execFill_onlyWrites {tag : ColorTag} {s t : State} (h : execFill tag s = .next t) : OnlyWrites [.fb] s t := by
  unfold execFill at h
  split at h <;> obtain rfl := Host.Outcome.next.inj h
  · exact .answer _ s .rejected .nothing
  · exact .fb s _ .ok .nothing

theorem execSetRotation_onlyWrites {rot : Rotation} {s t : State} (h : execSetRotation rot s = .next t) :
    OnlyWrites [.rotation] s t := by
  obtain rfl := Host.Outcome.next.inj h
  intro e he
  cases e with
  | rotation => simp at he
  | fb | dc | rst | background | session | trace | cfg | requests => rfl

theorem execSetBackgroundColor_onlyWrites {tag : ColorTag} {s t : State}
    (h : execSetBackgroundColor tag s = .next t) : OnlyWrites [.background] s t := by
  unfold execSetBackgroundColor at h
  split at h
  · split at h <;> obtain rfl := Host.Outcome.next.inj h
    · exact .answer _ s .rejected .nothing
    · intro e he
      cases e with
      | background => simp at he
      | fb | rotation | dc | rst | session | trace | cfg | requests => rfl
  · exact Host.Outcome.next.inj h ▸ .answer _ s .rejected .nothing

/-- A plane write is refused, or sends its frame in a session it leaves as it was (44_session.md R191, R192). -/
theorem State.planeWrite_onlyWrites (s : State) (op : PlaneOps → Byte) (buffer : List Byte) :
    OnlyWrites [.dc, .trace] s (s.planeWrite op buffer) := by
  unfold State.planeWrite
  split
  · exact .answer _ s .rejected .nothing
  · split
    · exact (busPhases_sendCommandWithDataActs _ _ _).onlyWrites_bus (And.left ‹_›)
    · exact .answer _ s .rejected .nothing

/-- Every operation writes at most what the table gives it (10_state.md R20). -/
theorem exec_onlyWrites {i : Instr} {s t : State} (h : exec i s = .next t) : OnlyWrites (writtenBy i) s t := by
  cases i with
  | resolve x y => exact Host.Outcome.next.inj h ▸ .answer _ s .ok _
  | setPixel x y color => exact execSetPixel_onlyWrites h
  | fill color => exact execFill_onlyWrites h
  | setRotation rot => exact execSetRotation_onlyWrites h
  | getRotation => exact Host.Outcome.next.inj h ▸ .answer _ s .ok _
  | rawBytes => exact Host.Outcome.next.inj h ▸ .answer _ s .ok _
  | sendCommand opcode => exact Host.Outcome.next.inj h ▸ (busPhases_sendCommandActs opcode).onlyWrites_bus rfl
  | sendData bytes => exact Host.Outcome.next.inj h ▸ (busPhases_sendDataActs _ bytes).onlyWrites_bus rfl
  | sendDataVerbatim bytes =>
    simp only [exec, execSendDataVerbatim] at h
    split at h <;> obtain rfl := Host.Outcome.next.inj h
    · exact .answer _ s .rejected .nothing
    · exact (busPhases_sendDataVerbatimActs bytes).onlyWrites_bus rfl
  | sendCommandWithData opcode bytes =>
    exact Host.Outcome.next.inj h ▸ (busPhases_sendCommandWithDataActs _ opcode bytes).onlyWrites_bus rfl
  | repeatByte value count =>
    exact Host.Outcome.next.inj h ▸ (busPhases_repeatByteActs value count).onlyWrites_bus rfl
  | reset durationLowMs => exact Host.Outcome.next.inj h ▸ reset_onlyWrites s durationLowMs
  | new => exact .guarded (fun _ => perform_onlyWrites s _ _) h
  | updateFrame buffer =>
    exact .guarded (fun hs => (busPhases_sendCommandWithDataActs _ _ buffer).onlyWrites_bus hs.1) h
  | displayFrame => exact .guarded (fun hs => (busPhases_runSeqActs _ _).onlyWrites_bus hs) h
  | updateAndDisplayFrame buffer =>
    exact .guarded (fun hs => ((busPhases_sendCommandWithDataActs _ _ buffer).append
      (busPhases_runSeqActs _ _)).onlyWrites_bus hs.1) h
  | clearFrame => exact .guarded (fun hs => (busPhases_clearFrameActs _ _).onlyWrites_bus hs.1) h
  | setBackgroundColor color => exact execSetBackgroundColor_onlyWrites h
  | backgroundColor =>
    simp only [exec, execBackgroundColor] at h
    split at h <;> obtain rfl := Host.Outcome.next.inj h
    · exact .answer _ s .ok _
    · exact .answer _ s .rejected .nothing
  | sleep => exact .guarded (fun _ => (busPhases_runSeqActs _ _).onlyWrites s _) h
  | wake => exact .guarded (fun _ => perform_onlyWrites s _ _) h
  | updateAchromaticFrame buffer => exact Host.Outcome.next.inj h ▸ s.planeWrite_onlyWrites _ buffer
  | updateChromaticFrame buffer => exact Host.Outcome.next.inj h ▸ s.planeWrite_onlyWrites _ buffer

/-! ### The columns of the table -/

section
variable {i : Instr}

theorem fb_mem_writtenBy (h : Element.fb ∈ writtenBy i) : (∃ x y c, i = .setPixel x y c) ∨ ∃ c, i = .fill c := by
  cases i <;> simp [writtenBy] at h ⊢

theorem rotation_mem_writtenBy (h : Element.rotation ∈ writtenBy i) : ∃ r, i = .setRotation r := by
  cases i <;> simp [writtenBy] at h ⊢

theorem background_mem_writtenBy (h : Element.background ∈ writtenBy i) : ∃ c, i = .setBackgroundColor c := by
  cases i <;> simp [writtenBy] at h ⊢

theorem rst_mem_writtenBy (h : Element.rst ∈ writtenBy i) : (∃ d, i = .reset d) ∨ i = .new ∨ i = .wake := by
  cases i <;> simp [writtenBy] at h ⊢

theorem dc_mem_writtenBy (h : Element.dc ∈ writtenBy i) : isSend i ∨ isSessionSend i := by
  cases i <;> simp [writtenBy, isSend, isSessionSend] at h ⊢

theorem session_mem_writtenBy (h : Element.session ∈ writtenBy i) : i = .new ∨ i = .wake ∨ i = .sleep := by
  cases i <;> simp [writtenBy] at h ⊢

theorem trace_mem_writtenBy (h : Element.trace ∈ writtenBy i) :
    isSend i ∨ isSessionSend i ∨ ∃ d, i = .reset d := by
  cases i <;> simp [writtenBy, isSend, isSessionSend] at h ⊢

theorem cfg_notMem_writtenBy : Element.cfg ∉ writtenBy i := by cases i <;> simp [writtenBy]

theorem requests_notMem_writtenBy : Element.requests ∉ writtenBy i := by cases i <;> simp [writtenBy]

end

/-! ### What the request port accepts -/

section
variable {s : State}

/-- A busy block accepts nothing (10_state.md R35). -/
theorem acceptance_of_busy (hc : s.cfg.wellFormed = true) (hb : s.busy = true) : s.acceptance = .idle := by
  rw [State.acceptance, if_pos hc, if_pos hb]

/-- The oldest request decodes: it is accepted and its instruction runs. -/
theorem acceptance_of_decode_ok {r : Request} {rest : List Request} {i : Instr} (hc : s.cfg.wellFormed = true)
    (hb : s.busy = false) (hr : s.requests = r :: rest) (hd : decodeRequest r = .ok i) :
    s.acceptance = .run i (s.accept rest) := by
  simp [State.acceptance, hc, hb, hr, hd]

/-- The oldest request does not decode: it is accepted and turned away (30_encoding.md R90). -/
theorem acceptance_of_decode_error {r : Request} {rest : List Request} {e : DecodeError}
    (hc : s.cfg.wellFormed = true) (hb : s.busy = false) (hr : s.requests = r :: rest)
    (hd : decodeRequest r = .error e) : s.acceptance = .turnedAway (s.accept rest).reject := by
  simp only [State.acceptance, hc, hb, hr, hd, if_true, Bool.false_eq_true, if_false]

/-- An instruction runs only where the block was not busy, in the state that has accepted a request. -/
theorem acceptance_run {i : Instr} {t : State} (h : s.acceptance = .run i t) :
    s.busy = false ∧ ∃ rest, t = s.accept rest := by
  have hc : s.cfg.wellFormed = true := by
    by_contra hc
    simp [State.acceptance, hc] at h
  refine ⟨?_, ?_⟩
  · by_contra hb
    simp [acceptance_of_busy hc (by simpa using hb)] at h
  · rcases acceptance_cases hc with hidle | ⟨rest, haway | ⟨j, hrun⟩⟩
    · simp [hidle] at h
    · simp [haway] at h
    · obtain ⟨-, rfl⟩ := Acceptance.run.inj (hrun.symm.trans h)
      exact ⟨rest, rfl⟩

theorem step_of_idle (h : s.acceptance = .idle) : step s = .next s := by
  simp [step, h]

theorem step_of_turnedAway {t : State} (h : s.acceptance = .turnedAway t) : step s = .next t := by
  simp [step, h]

theorem step_of_run {i : Instr} {t : State} (h : s.acceptance = .run i t) : step s = exec i t := by
  simp [step, h]

end

end Sys2Proof.Machine

namespace Sys2Proof

open Sys2Proof.Claims

/-! ### The patterns of the colors -/

/-- What R27 of 10_state.md asks of the patterns. -/
theorem Gray2Pattern.lawful_iff (p : Gray2Pattern) :
    p.lawful = true ↔
      [p.black, p.white, p.gray1, p.gray2].Nodup ∧ p.white = 3 - p.black ∧ p.gray2 = 3 - p.gray1 := by
  simp only [Gray2Pattern.lawful, Bool.and_eq_true, decide_eq_true_eq, and_assoc]

theorem Config.lawful_of_wellFormed {c : Config} (h : c.wellFormed = true) : c.gray2Pat.lawful = true := by
  simp only [Config.wellFormed, Bool.and_eq_true] at h
  obtain ⟨⟨⟨⟨-, hlawful⟩, -⟩, -⟩, -⟩ := h
  exact hlawful

/-- Two patterns of two bits and their complements, where they differ, are all there are. -/
theorem eq_pattern_or_complement (p a b : BitVec 2) (hne : a ≠ b) (hne' : 3 - a ≠ b) :
    p = a ∨ p = 3 - a ∨ p = b ∨ p = 3 - b := by
  revert p a b
  decide

theorem Gray2.invert_invert (g : Gray2) : g.invert.invert = g := by cases g <;> rfl

section
variable {c : Config}

/-- The inverse of a color has the complement pattern (10_state.md R27). -/
theorem Config.pat2_invert (h : c.gray2Pat.lawful = true) (g : Gray2) : c.pat2 g.invert = 3 - c.pat2 g := by
  obtain ⟨-, hwhite, hgray2⟩ := (Gray2Pattern.lawful_iff _).1 h
  cases g with
  | black => exact hwhite
  | gray1 => exact hgray2
  | white => simp [Gray2.invert, Config.pat2, hwhite]
  | gray2 => simp [Gray2.invert, Config.pat2, hgray2]

theorem Config.pat2_injective (h : c.gray2Pat.lawful = true) {g g' : Gray2} (hg : c.pat2 g = c.pat2 g') : g = g' := by
  obtain ⟨hnodup, -, -⟩ := (Gray2Pattern.lawful_iff _).1 h
  cases g <;> cases g' <;> simp_all [Config.pat2]

/-- Every pattern is some color's. -/
theorem Config.pat2_surjective (h : c.gray2Pat.lawful = true) (p : BitVec 2) : ∃ g, c.pat2 g = p := by
  have hgray1 : c.pat2 .black ≠ c.pat2 .gray1 := fun he =>
    absurd (c.pat2_injective h he) (by decide)
  have hwhite : 3 - c.pat2 .black ≠ c.pat2 .gray1 := fun he => 
    absurd (c.pat2_injective h ((c.pat2_invert h .black).trans he)) (by decide)
  rcases eq_pattern_or_complement p _ _ hgray1 hwhite with hp | hp | hp | hp
  · exact ⟨.black, hp.symm⟩
  · exact ⟨.white, (c.pat2_invert h .black).trans hp.symm⟩
  · exact ⟨.gray1, hp.symm⟩
  · exact ⟨.gray2, (c.pat2_invert h .gray1).trans hp.symm⟩

/-- The inverse mapping gives a color's pattern back as the color (10_state.md R28). -/
theorem Config.unpat2_pat2 (h : c.gray2Pat.lawful = true) (g : Gray2) : c.unpat2 (c.pat2 g) = some g := by
  cases hfound : c.unpat2 (c.pat2 g) with
  | none => cases g <;> simp [Config.unpat2] at hfound
  | some g' =>
    have hpat := List.find?_some hfound
    rw [c.pat2_injective h (eq_of_beq hpat)]

end

end Sys2Proof

namespace Sys2Proof.Proofs

open Sys2Proof.Machine Sys2Proof.Claims

/-- Settles O57: an element that changed is in the operation's row of the table, so the operation is in the element's
column. -/
theorem eachElementHasItsWriters : Obligations.EachElementHasItsWriters := by
  intro i s t h
  have hw := exec_onlyWrites h
  exact ⟨fun hfb => fb_mem_writtenBy (hw.mem hfb), fun hrot => rotation_mem_writtenBy (hw.mem hrot),
    fun hbg => background_mem_writtenBy (hw.mem hbg), fun hrst => rst_mem_writtenBy (hw.mem hrst),
    fun hdc => dc_mem_writtenBy (hw.mem hdc), fun hsession => session_mem_writtenBy (hw.mem hsession),
    fun htrace => trace_mem_writtenBy (hw.mem htrace), hw .cfg cfg_notMem_writtenBy,
    hw .requests requests_notMem_writtenBy⟩

/-- Settles O5: the port accepts the oldest request, and the decoder says which way the step goes. -/
theorem stepRunsTheDecodedRequest : Obligations.StepRunsTheDecodedRequest := by
  intro s r rest hc hb hr
  exact ⟨fun i hd => step_of_run (acceptance_of_decode_ok hc hb hr hd),
    fun e hd => step_of_turnedAway (acceptance_of_decode_error hc hb hr hd)⟩

/-- Settles O7: a busy block's port is idle, acceptance sets `BUSY`, and every outcome clears it. -/
theorem busyFromAcceptanceToOutcome : Obligations.BusyFromAcceptanceToOutcome := by
  refine ⟨fun s hc hb => step_of_idle (acceptance_of_busy hc hb), fun s i t h => ?_, fun i s t h => ?_⟩
  · obtain ⟨hb, rest, rfl⟩ := acceptance_run h
    exact ⟨hb, rfl⟩
  · obtain ⟨hb, ⟨response, hresponse⟩, -, -⟩ := exec_outcome h
    exact ⟨hb, by simp [hresponse]⟩

/-- Settles O28: a well-formed configuration has lawful patterns; that eight pattern functions are lawful is counted. -/
theorem colorPatternLaws : Obligations.ColorPatternLaws := by
  refine ⟨fun c hc => ?_, Gray2.invert_invert, by decide, rfl, by decide, rfl, rfl, rfl, rfl⟩
  have hlawful := Config.lawful_of_wellFormed hc
  obtain ⟨-, hwhite, hgray2⟩ := (Gray2Pattern.lawful_iff _).1 hlawful
  refine ⟨fun _ _ => c.pat2_injective hlawful, hwhite, hgray2, c.pat2_invert hlawful, c.unpat2_pat2 hlawful,
    fun p => ?_⟩
  obtain ⟨g, rfl⟩ := c.pat2_surjective hlawful p
  exact ⟨g, c.unpat2_pat2 hlawful g, rfl⟩

end Sys2Proof.Proofs

/-! ## The memory: the order of the bits on the wire (20_memory.md)

The bits of a byte determine it, and a panel captures one bit at each rising edge, whichever level the clock idled at before
the first. -/

namespace Sys2Proof.Machine

/-- The bits of a byte, from bit 7 down to bit 0 (20_memory.md R58). -/
theorem byteBits_eq (b : Byte) :
    byteBits b = [b.getLsbD 7, b.getLsbD 6, b.getLsbD 5, b.getLsbD 4, b.getLsbD 3, b.getLsbD 2, b.getLsbD 1,
      b.getLsbD 0] := rfl

@[simp] theorem length_byteBits (b : Byte) : (byteBits b).length = 8 := rfl

theorem byteBits_injective : Function.Injective byteBits := by
  intro b b' h
  refine BitVec.eq_of_getLsbD_eq fun k hk => ?_
  have hbit : b.getLsbD (7 - (7 - k)) = b'.getLsbD (7 - (7 - k)) :=
    List.map_inj_left.1 h (7 - k) (List.mem_range.2 (by omega))
  rwa [show 7 - (7 - k) = k by omega] at hbit

@[simp] theorem wireBits_nil : wireBits [] = [] := rfl

@[simp] theorem wireBits_cons (b : Byte) (bs : List Byte) : wireBits (b :: bs) = byteBits b ++ wireBits bs := rfl

/-- As every byte takes eight bits, the bits can be cut into the bytes again. -/
theorem wireBits_injective : Function.Injective wireBits := by
  intro bs
  induction bs with
  | nil =>
    rintro (_ | ⟨b', bs'⟩) h
    · rfl
    · simp [byteBits_eq] at h
  | cons b bs ih =>
    rintro (_ | ⟨b', bs'⟩) h
    · simp [byteBits_eq] at h
    · obtain ⟨hb, hbs⟩ := List.append_inj h (by rw [length_byteBits, length_byteBits])
      rw [byteBits_injective hb, ih hbs]

/-- One bit's two samples hold one rising edge, whatever the clock's level before them, and leave the clock high. -/
theorem capturedBits_bitSamples_append (before : Level) (bit : Bool) (xs : List Sample) :
    capturedBits before (bitSamples bit ++ xs) = bit :: capturedBits .high xs := by
  simp [bitSamples, capturedBits]

/-- The clock's level before a transfer is left open, as it is high after the first bit (30_encoding.md R73). -/
theorem capturedBits_flatMap_bitSamples (before : Level) (bits : List Bool) :
    capturedBits before (bits.flatMap bitSamples) = bits := by
  induction bits generalizing before with
  | nil => rfl
  | cons bit bits ih => rw [List.flatMap_cons, capturedBits_bitSamples_append, ih]

end Sys2Proof.Machine

namespace Sys2Proof.Proofs

open Sys2Proof.Machine

/-- Settles O38: each bit's samples hold one rising edge, and eight bits determine a byte. -/
theorem panelCapturesBytesMostSignificantBitFirst : Obligations.PanelCapturesBytesMostSignificantBitFirst :=
  ⟨fun bs => capturedBits_flatMap_bitSamples .low (wireBits bs),
    fun b bs => by rw [wireBits_cons, byteBits_eq], fun _ _ h => wireBits_injective h⟩

end Sys2Proof.Proofs

/-! ## The encoding: the two round trips of the decoder and the encoder, and the illegal requests (30_encoding.md)

An operation, its immediate and its operands make up both an instruction (`Operation.instr`) and a request
(`Operation.frame`). `decodeRequest_eq_ok_iff` says that the decoder takes exactly the frames of legal parts, and
`encode_instr` that the encoder writes them; both round trips are read off these two.
`Refuses` says what an operation refuses, and `illegal_frame_iff` that a request that decodes is illegal exactly
there. -/

namespace Sys2Proof

/-! ### The numbers of the operations and of the rotations -/

theorem Operation.mem_all (o : Operation) : o ∈ Operation.all := by cases o <;> decide

theorem Operation.number_injective : Function.Injective Operation.number := by
  intro o o' h
  have hfound := Operation.ofNumber_number o
  rw [h, Operation.ofNumber_number] at hfound
  exact (Option.some.inj hfound).symm

/-- A list of operation numbers given by what the operations need (30_encoding.md R80). -/
theorem Operation.number_mem_map_filter (p : Operation → Bool) (o : Operation) :
    o.number ∈ (Operation.all.filter p).map Operation.number ↔ p o = true := by
  simp [Operation.number_injective.eq_iff, o.mem_all]

theorem Rotation.ofNumber_number (rot : Rotation) : Rotation.ofNumber rot.number = rot := by cases rot <;> decide

theorem Rotation.number_toNat_lt (rot : Rotation) : rot.number.toNat < 4 := by cases rot <;> decide

/-- The four numbers `0..3` are rotations (30_encoding.md R78). -/
theorem Rotation.number_ofNumber {a : Byte} (h : a.toNat < 4) : (Rotation.ofNumber a).number = a := by
  have hcases : a = 0 ∨ a = 1 ∨ a = 2 ∨ a = 3 := by bv_omega
  rcases hcases with rfl | rfl | rfl | rfl <;> rfl

/-! ### The header word -/

section
variable {a : Byte}

theorem Immediate.error_zero : Immediate.zero.error a = none ↔ a = 0 := by simp [Immediate.error]

theorem Immediate.error_rotation : Immediate.rotation.error a = none ↔ a.toNat < 4 := by simp [Immediate.error]

theorem Immediate.error_colorTag : Immediate.colorTag.error a = none ↔ colorTagFits a = true := by
  simp [Immediate.error]

end

theorem decodeHeader_headerWord {o : Operation} {a : Byte} (h : o.immediate.error a = none) :
    decodeHeader (headerWord o.number a) = .ok o := by
  simp [decodeHeader, Operation.ofNumber_number, h]

/-- The headers that select an operation (30_encoding.md R81, R90 cases 1 to 4). -/
theorem decodeHeader_eq_ok_iff {h : Word} {o : Operation} :
    decodeHeader h = .ok o ↔ ∃ a, h = headerWord o.number a ∧ o.immediate.error a = none := by
  constructor
  · intro hd
    unfold decodeHeader at hd
    split at hd
    · cases hd
    · rename_i hnumber
      split at hd
      · rename_i hz
        split at hd
        · cases hd
        · obtain rfl := Except.ok.inj hd
          refine ⟨headerA h, ?_, ‹_›⟩
          rw [Operation.number_of_ofNumber hnumber, headerWord_of_fields h hz]
      · cases hd
  · rintro ⟨a, rfl, ha⟩
    exact decodeHeader_headerWord ha

/-! ### The operand words and the payload -/

/-- The operand words a format writes (30_encoding.md R76, R77). -/
def Operands.words (v : Operands) : Format → List Word
  | .n => []
  | .a => []
  | .p => [BitVec.ofInt 32 v.x, BitVec.ofInt 32 v.y]
  | .c => [BitVec.ofNat 32 v.count]
  | .l => [BitVec.ofNat 32 v.payload.length]

/-- The operands are those of a format: it has every one that is not at its default, and each is in its range
(30_encoding.md R76, R77). -/
def Operands.Fits (v : Operands) : Format → Prop
  | .n => v = {}
  | .a => v = {}
  | .p => v = { x := v.x, y := v.y } ∧ coordinateFits v.x = true ∧ coordinateFits v.y = true
  | .c => v = { count := v.count } ∧ countFits v.count = true
  | .l => v = { payload := v.payload } ∧ countFits v.payload.length = true

theorem coordinateFits_toInt (w : Word) : coordinateFits w.toInt = true := by
  have hle := w.le_toInt
  have hlt := w.toInt_lt
  simp [coordinateFits] at hle hlt ⊢
  omega

theorem countFits_toNat (w : Word) : countFits w.toNat = true := by
  simpa [countFits] using w.isLt

theorem Format.operands_words {f : Format} {v : Operands} (h : v.Fits f) :
    f.operands (v.words f) v.payload = some v := by
  cases f with
  | n | a =>
    simp only [Operands.Fits] at h
    subst h
    rfl
  | p =>
    obtain ⟨hv, hx, hy⟩ := h
    rw [hv]
    simp [Format.operands, Operands.words, toInt_ofInt_of_fits hx, toInt_ofInt_of_fits hy]
  | c =>
    obtain ⟨hv, hcount⟩ := h
    rw [hv]
    simp only [Format.operands, Operands.words, toNat_ofNat_of_fits hcount, if_true]
  | l =>
    obtain ⟨hv, hlength⟩ := h
    rw [hv]
    simp only [Format.operands, Operands.words, toNat_ofNat_of_fits hlength, if_true]

/-- What a format reads is what it writes (30_encoding.md R76, R77). -/
theorem Format.operands_eq_some_iff {f : Format} {ws : List Word} {payload : List Byte} {v : Operands} :
    f.operands ws payload = some v ↔ v.Fits f ∧ ws = v.words f ∧ payload = v.payload := by
  constructor
  · intro h
    unfold Format.operands at h
    split at h
    case h_6 => cases h
    all_goals
      split at h <;> cases h
    · exact ⟨rfl, rfl, ‹_›⟩
    · exact ⟨rfl, rfl, ‹_›⟩
    · exact ⟨⟨rfl, coordinateFits_toInt _, coordinateFits_toInt _⟩, by simp [Operands.words], ‹_›⟩
    · exact ⟨⟨rfl, countFits_toNat _⟩, by simp [Operands.words], ‹_›⟩
    · rename_i hlength
      exact ⟨⟨rfl, by rw [hlength]; exact countFits_toNat _⟩, by simp [Operands.words, hlength], rfl⟩
  · rintro ⟨hfits, rfl, rfl⟩
    exact Format.operands_words hfits

/-! ### The parts of a request and of an instruction -/

/-- The request of an operation with an immediate and operands (30_encoding.md R75, R76). -/
def Operation.frame (o : Operation) (a : Byte) (v : Operands) : Request :=
  { words := headerWord o.number a :: v.words o.format, payload := v.payload }

/-- The immediate and the operands are some the decoder takes for an operation. -/
structure Operation.Takes (o : Operation) (a : Byte) (v : Operands) : Prop where
  /-- The immediate is legal at some depth (30_encoding.md R78, R79). -/
  immediate : o.immediate.error a = none
  /-- The operands are the format's (30_encoding.md R76). -/
  operands : v.Fits o.format

/-- The decoder takes exactly the frames whose parts an operation takes (30_encoding.md R75 to R81). -/
theorem decodeRequest_eq_ok_iff {r : Request} {i : Instr} :
    decodeRequest r = .ok i ↔ ∃ o a v, Operation.Takes o a v ∧ r = o.frame a v ∧ i = o.instr a v := by
  constructor
  · intro hd
    obtain ⟨words, payload⟩ := r
    cases words with
    | nil => cases hd
    | cons h ws =>
      simp only [decodeRequest] at hd
      split at hd
      · cases hd
      · rename_i o hheader
        split at hd
        · cases hd
        · rename_i v hoperands
          obtain ⟨a, rfl, ha⟩ := decodeHeader_eq_ok_iff.1 hheader
          obtain ⟨hfits, rfl, rfl⟩ := Format.operands_eq_some_iff.1 hoperands
          rw [headerA_headerWord] at hd
          exact ⟨o, a, v, ⟨ha, hfits⟩, rfl, (Except.ok.inj hd).symm⟩
  · rintro ⟨o, a, v, ⟨ha, hfits⟩, rfl, rfl⟩
    simp [decodeRequest, Operation.frame, decodeHeader_headerWord ha, Format.operands_words hfits]

theorem Operation.operation_instr (o : Operation) (a : Byte) (v : Operands) : (o.instr a v).operation = o := by
  cases o <;> rfl

theorem Operation.operandWords_instr (o : Operation) (a : Byte) (v : Operands) :
    (o.instr a v).operandWords = v.words o.format := by
  cases o <;> rfl

section
variable {o : Operation} {a : Byte} {v : Operands}

/-- An immediate that must be zero is, and the four rotations are told apart by their numbers. -/
theorem Operation.Takes.immediate_instr (h : o.Takes a v) : (o.instr a v).immediate = a := by
  have ha := h.immediate
  cases o with
  | setPixel | fill | setBackgroundColor | sendCommand | sendCommandWithData | repeatByte => rfl
  | setRotation => exact Rotation.number_ofNumber (Immediate.error_rotation.1 ha)
  | resolve | getRotation | rawBytes | sendData | sendDataVerbatim | reset | new | updateFrame | displayFrame
  | updateAndDisplayFrame | clearFrame | backgroundColor | sleep | wake | updateAchromaticFrame
  | updateChromaticFrame => exact (Immediate.error_zero.1 ha).symm

theorem Operation.Takes.payload_instr (h : o.Takes a v) : (o.instr a v).payload = v.payload := by
  have hfits := h.operands
  cases o with
  | sendData | sendDataVerbatim | sendCommandWithData | updateFrame | updateAndDisplayFrame | updateAchromaticFrame
  | updateChromaticFrame => rfl
  | resolve | setPixel | repeatByte | reset => rw [hfits.1]; rfl
  | fill | setRotation | getRotation | rawBytes | sendCommand | new | displayFrame | clearFrame | setBackgroundColor
  | backgroundColor | sleep | wake => rw [show v = {} from hfits]; rfl

/-- The encoder writes the frame of an instruction's parts. -/
theorem Operation.Takes.encode_instr (h : o.Takes a v) : encode (o.instr a v) = o.frame a v := by
  simp only [encode, Operation.frame, Operation.operation_instr, h.immediate_instr, Operation.operandWords_instr,
    h.payload_instr]

theorem Operation.Takes.wellFormed_instr (h : o.Takes a v) : (o.instr a v).wellFormed = true := by
  obtain ⟨ha, hfits⟩ := h
  cases o with
  | resolve => simp [Operation.instr, Instr.wellFormed, hfits.2.1, hfits.2.2]
  | setPixel => simp [Operation.instr, Instr.wellFormed, hfits.2.1, hfits.2.2, Immediate.error_colorTag.1 ha]
  | fill | setBackgroundColor => exact Immediate.error_colorTag.1 ha
  | repeatByte | reset => exact hfits.2
  | sendData | sendDataVerbatim | sendCommandWithData | updateFrame | updateAndDisplayFrame | updateAchromaticFrame
  | updateChromaticFrame => exact hfits.2
  | setRotation | getRotation | rawBytes | sendCommand | new | displayFrame | clearFrame | backgroundColor | sleep
  | wake => rfl

end

/-- Every well-formed instruction is made of parts its operation takes. -/
theorem Instr.exists_takes {i : Instr} (h : i.wellFormed = true) :
    ∃ o a v, Operation.Takes o a v ∧ i = o.instr a v := by
  cases i with
  | resolve x y =>
    obtain ⟨hx, hy⟩ := (Bool.and_eq_true _ _).mp h
    exact ⟨.resolve, 0, { x, y }, ⟨rfl, rfl, hx, hy⟩, rfl⟩
  | setPixel x y color =>
    obtain ⟨hpoint, hcolor⟩ := (Bool.and_eq_true _ _).mp h
    obtain ⟨hx, hy⟩ := (Bool.and_eq_true _ _).mp hpoint
    exact ⟨.setPixel, color, { x, y }, ⟨Immediate.error_colorTag.2 hcolor, rfl, hx, hy⟩, rfl⟩
  | fill color => exact ⟨.fill, color, {}, ⟨Immediate.error_colorTag.2 h, rfl⟩, rfl⟩
  | setBackgroundColor color => exact ⟨.setBackgroundColor, color, {}, ⟨Immediate.error_colorTag.2 h, rfl⟩, rfl⟩
  | setRotation rot =>
    exact ⟨.setRotation, rot.number, {}, ⟨Immediate.error_rotation.2 rot.number_toNat_lt, rfl⟩,
      by rw [Operation.instr, rot.ofNumber_number]⟩
  | sendCommand opcode => exact ⟨.sendCommand, opcode, {}, ⟨rfl, rfl⟩, rfl⟩
  | repeatByte value count => exact ⟨.repeatByte, value, { count }, ⟨rfl, rfl, h⟩, rfl⟩
  | reset durationLowMs => exact ⟨.reset, 0, { count := durationLowMs }, ⟨rfl, rfl, h⟩, rfl⟩
  | sendCommandWithData opcode bytes =>
    exact ⟨.sendCommandWithData, opcode, { payload := bytes }, ⟨rfl, rfl, h⟩, rfl⟩
  | sendData bytes => exact ⟨.sendData, 0, { payload := bytes }, ⟨rfl, rfl, h⟩, rfl⟩
  | sendDataVerbatim bytes => exact ⟨.sendDataVerbatim, 0, { payload := bytes }, ⟨rfl, rfl, h⟩, rfl⟩
  | updateFrame buffer => exact ⟨.updateFrame, 0, { payload := buffer }, ⟨rfl, rfl, h⟩, rfl⟩
  | updateAndDisplayFrame buffer => exact ⟨.updateAndDisplayFrame, 0, { payload := buffer }, ⟨rfl, rfl, h⟩, rfl⟩
  | updateAchromaticFrame buffer => exact ⟨.updateAchromaticFrame, 0, { payload := buffer }, ⟨rfl, rfl, h⟩, rfl⟩
  | updateChromaticFrame buffer => exact ⟨.updateChromaticFrame, 0, { payload := buffer }, ⟨rfl, rfl, h⟩, rfl⟩
  | getRotation => exact ⟨.getRotation, 0, {}, ⟨rfl, rfl⟩, rfl⟩
  | rawBytes => exact ⟨.rawBytes, 0, {}, ⟨rfl, rfl⟩, rfl⟩
  | new => exact ⟨.new, 0, {}, ⟨rfl, rfl⟩, rfl⟩
  | displayFrame => exact ⟨.displayFrame, 0, {}, ⟨rfl, rfl⟩, rfl⟩
  | clearFrame => exact ⟨.clearFrame, 0, {}, ⟨rfl, rfl⟩, rfl⟩
  | backgroundColor => exact ⟨.backgroundColor, 0, {}, ⟨rfl, rfl⟩, rfl⟩
  | sleep => exact ⟨.sleep, 0, {}, ⟨rfl, rfl⟩, rfl⟩
  | wake => exact ⟨.wake, 0, {}, ⟨rfl, rfl⟩, rfl⟩

end Sys2Proof

namespace Sys2Proof.Proofs

/-- Settles O1: a well-formed instruction is made of parts its operation takes, and the encoder writes their frame,
which the decoder takes. -/
theorem decodeOfEncodedInstruction : Obligations.DecodeOfEncodedInstruction := by
  intro i hi
  obtain ⟨o, a, v, htakes, rfl⟩ := i.exists_takes hi
  exact decodeRequest_eq_ok_iff.2 ⟨o, a, v, htakes, htakes.encode_instr, rfl⟩

/-- Settles O2: a request that decodes is the frame of parts an operation takes, and the encoder writes that frame. -/
theorem decodedRequestIsItsEncoding : Obligations.DecodedRequestIsItsEncoding := by
  intro r i hd
  obtain ⟨o, a, v, htakes, rfl, rfl⟩ := decodeRequest_eq_ok_iff.1 hd
  exact ⟨htakes.wellFormed_instr, htakes.encode_instr⟩

/-- Settles O3, by evaluation of the seven encodings. -/
theorem workedEncodings : Obligations.WorkedEncodings := by
  unfold Obligations.WorkedEncodings
  decide

end Sys2Proof.Proofs

namespace Sys2Proof

open Sys2Proof.Claims

/-! ### The lists of operation numbers -/

theorem Operation.immediate_eq_rotation_iff {o : Operation} : o.immediate = .rotation ↔ o = .setRotation := by
  cases o <;> decide

theorem mem_operationNumbers_iff {n : Byte} : n ∈ operationNumbers ↔ ∃ o : Operation, o.number = n := by
  rw [show operationNumbers = Operation.all.map Operation.number from rfl, List.mem_map]
  exact exists_congr fun o => and_iff_right o.mem_all

theorem number_mem_zeroImmediateNumbers_iff {o : Operation} :
    o.number ∈ zeroImmediateNumbers ↔ o.immediate = .zero := by
  rw [show zeroImmediateNumbers = (Operation.all.filter (·.immediate == .zero)).map Operation.number from rfl,
    Operation.number_mem_map_filter, beq_iff_eq]

theorem number_mem_colorNumbers_iff {o : Operation} : o.number ∈ colorNumbers ↔ o.immediate = .colorTag := by
  rw [show colorNumbers = (Operation.all.filter (·.immediate == .colorTag)).map Operation.number from rfl,
    Operation.number_mem_map_filter, beq_iff_eq]

theorem number_mem_frameNumbers_iff {o : Operation} :
    o.number ∈ frameNumbers ↔
      o ∈ [.updateFrame, .updateAndDisplayFrame, .updateAchromaticFrame, .updateChromaticFrame] := by
  cases o <;> decide

theorem number_mem_readyNumbers_iff {o : Operation} :
    o.number ∈ readyNumbers ↔
      o ∈ [.updateFrame, .displayFrame, .updateAndDisplayFrame, .clearFrame, .sleep, .updateAchromaticFrame,
        .updateChromaticFrame] := by
  cases o <;> decide

/-- A tag that names no color at the buffer's depth (30_encoding.md R79). -/
theorem Layout.colorOfTag_eq_none_iff {l : Layout} {tag : ColorTag} :
    l.colorOfTag tag = none ↔ 2 ^ l.bitDepth ≤ tag.toNat := by
  cases l with
  | l1 | x2 | y2 =>
    simp only [Layout.colorOfTag, Layout.colorOfTag.twoBit, Layout.bitDepth]
    split_ifs
    all_goals
      simp only [false_iff, true_iff]
      bv_omega

theorem Layout.two_pow_bitDepth_le (l : Layout) : 2 ^ l.bitDepth ≤ 4 := by cases l <;> decide

/-- The operation's format reads what is framed for it (30_encoding.md R76). -/
theorem exists_operands_of_framed {o : Operation} {a : Byte} {ws : List Word} {payload : List Byte}
    (h : framed ⟨headerWord o.number a :: ws, payload⟩) : ∃ v, o.format.operands ws payload = some v := by
  have formatOf (p : Format → Bool)
      (hmem : o.number ∈ (Operation.all.filter fun o => p o.format).map Operation.number) : p o.format = true :=
    (Operation.number_mem_map_filter _ o).1 hmem
  simp only [framed, List.cons.injEq, existsAndEq, and_true, true_and, headerOp_headerWord] at h
  rcases h with ⟨hmem, hlength, hpayload⟩ | ⟨hmem, hlength, hpayload⟩ | ⟨hmem, n, rfl, hlength⟩ |
    ⟨hmem, rfl, hpayload⟩
  · have hf := formatOf (· == .p) hmem
    obtain ⟨x, y, rfl⟩ := List.length_eq_two.1 hlength
    simp [eq_of_beq hf, Format.operands, hpayload]
  · have hf := formatOf (· == .c) hmem
    obtain ⟨n, rfl⟩ := List.length_eq_one_iff.1 hlength
    simp [eq_of_beq hf, Format.operands, hpayload]
  · have hf := formatOf (· == .l) hmem
    simp [eq_of_beq hf, Format.operands, hlength]
  · have hf := formatOf (fun f => f == .n || f == .a) hmem
    simp only [Bool.or_eq_true, beq_iff_eq] at hf
    rcases hf with hf | hf <;> simp [hf, Format.operands, hpayload]

end Sys2Proof

namespace Sys2Proof.Machine

open Sys2Proof.Claims

/-! ### What an operation refuses -/

/-- The operation is illegal in this state: what 30_encoding.md R90 leaves to the operations, cases 4 to 7. -/
def Refuses (s : State) : Instr → Prop
  | .setPixel _ _ color | .fill color => s.cfg.layout.colorOfTag color = none
  | .sendDataVerbatim bytes => exceedsLimit s.cfg.chunkLimit bytes.length = true
  | .new => s.session ≠ .uninitialized
  | .wake => s.session ≠ .sleeping
  | .displayFrame | .clearFrame | .sleep => s.session ≠ .ready
  | .updateFrame buffer | .updateAndDisplayFrame buffer => ¬ acceptsFrame s buffer
  | .updateAchromaticFrame buffer | .updateChromaticFrame buffer =>
    s.cfg.profileOps.planeOps = none ∨ ¬ acceptsFrame s buffer
  | .setBackgroundColor color => ¬ acceptsBackground s ∨ s.cfg.layout.colorOfTag color = none
  | .backgroundColor => ¬ acceptsBackground s
  | .resolve _ _ | .setRotation _ | .getRotation | .rawBytes | .sendCommand _ | .sendData _ | .sendCommandWithData _ _
  | .repeatByte _ _ | .reset _ => False

section
variable {s : State}

/-- Acceptance changes nothing a refusal depends on. -/
theorem refuses_accept {rest : List Request} {i : Instr} : Refuses (s.accept rest) i ↔ Refuses s i := Iff.rfl

theorem planeWrite_of_refuses {op : PlaneOps → Byte} {buffer : List Byte}
    (h : s.cfg.profileOps.planeOps = none ∨ ¬ acceptsFrame s buffer) : s.planeWrite op buffer = s.reject := by
  unfold State.planeWrite
  split
  · rfl
  · rename_i hops
    exact if_neg (h.resolve_left (by simp [hops]))

/-- What an operation refuses it answers `REJECTED`, with nothing else changed (30_encoding.md R90). -/
theorem exec_of_refuses {i : Instr} (h : Refuses s i) : exec i s = .next s.reject := by
  cases i with
  | setPixel x y color => simp only [exec, execSetPixel, show s.cfg.layout.colorOfTag color = none from h]
  | fill color => simp only [exec, execFill, show s.cfg.layout.colorOfTag color = none from h]
  | setBackgroundColor color =>
    simp only [exec, execSetBackgroundColor]
    rcases h with h | h
    · rw [if_neg h]
    · simp only [h, ite_self]
  | sendDataVerbatim bytes => exact if_pos h
  | new => exact if_neg h
  | wake => exact if_neg h
  | displayFrame => exact if_neg h
  | sleep => exact if_neg h
  | clearFrame => exact if_neg fun hready => h hready.1
  | updateFrame buffer => exact if_neg h
  | updateAndDisplayFrame buffer => exact if_neg h
  | backgroundColor => exact if_neg h
  | updateAchromaticFrame buffer => exact congrArg _ (planeWrite_of_refuses h)
  | updateChromaticFrame buffer => exact congrArg _ (planeWrite_of_refuses h)
  | resolve | setRotation | getRotation | rawBytes | sendCommand | sendData | sendCommandWithData | repeatByte
  | reset => exact h.elim

theorem statusIs_answer {status status' : Status} {result : Result} :
    statusIs (s.answer status result) status' ↔ status = status' := by
  simp [statusIs]

/-- An operation made of acts ends with `OK` or with `BUS_ERROR` (44_session.md R181, 60_exceptions.md R203). -/
theorem perform_not_rejected (s : State) (acts : List Act) (after : Session) :
    ¬ statusIs (s.perform acts after) .rejected := by
  rcases s.perform_cases acts after with ⟨-, h⟩ | ⟨pre, bs, post, -, -, -, h⟩
  · simp [h, statusIs_answer]
  · simp [h, statusIs_answer]

theorem planeWrite_not_rejected {op : PlaneOps → Byte} {buffer : List Byte}
    (h : ¬ (s.cfg.profileOps.planeOps = none ∨ ¬ acceptsFrame s buffer)) :
    ¬ statusIs (s.planeWrite op buffer) .rejected := by
  obtain ⟨hops, haccepts⟩ := not_or.1 h
  unfold State.planeWrite
  split
  · exact absurd ‹_› hops
  · rw [if_pos (not_not.1 haccepts)]
    exact perform_not_rejected _ _ _

/-- An operation answers `REJECTED` only what it refuses, where the background is of the buffer's depth (log 15). -/
theorem exec_not_rejected {i : Instr} {t : State} (h : ¬ Refuses s i)
    (hbackground : s.cfg.layout.holds s.background = true) (ht : exec i s = .next t) : ¬ statusIs t .rejected := by
  have of_next {u : State} (hu : ¬ statusIs u .rejected) (he : exec i s = .next u) : ¬ statusIs t .rejected :=
    Host.Outcome.next.inj (he.symm.trans ht) ▸ hu
  have performed {acts : List Act} {after : Session} (he : exec i s = .next (s.perform acts after)) :
      ¬ statusIs t .rejected := of_next (perform_not_rejected s acts after) he
  have succeeded {u : State} {result : Result} (he : exec i s = .next (u.succeed result)) : ¬ statusIs t .rejected :=
    of_next (by simp [statusIs_answer]) he
  cases i with
  | resolve | setRotation | getRotation | rawBytes => exact succeeded rfl
  | sendCommand | sendData | sendCommandWithData | repeatByte | reset => exact performed rfl
  | setPixel x y color =>
    obtain ⟨c, hc⟩ := Option.ne_none_iff_exists'.1 h
    cases hp : devicePoint s.cfg s.rotation x y with
    | none => exact succeeded (by simp only [exec, execSetPixel, hc, hp]; rfl)
    | some p =>
      cases hw : s.writePixel c p.1 p.2 with
      | ok u => exact succeeded (u := u) (result := .nothing) (by simp only [exec, execSetPixel, hc, hp, hw])
      | error f => simp [exec, execSetPixel, hc, hp, hw] at ht
  | fill color =>
    obtain ⟨c, hc⟩ := Option.ne_none_iff_exists'.1 h
    exact succeeded (by simp only [exec, execFill, hc]; rfl)
  | setBackgroundColor color =>
    obtain ⟨haccepts, hcolor⟩ := not_or.1 h
    obtain ⟨c, hc⟩ := Option.ne_none_iff_exists'.1 hcolor
    refine succeeded (u := { s with background := c }) (result := .nothing) ?_
    simp only [exec, execSetBackgroundColor, if_pos (not_not.1 haccepts), hc]
  | sendDataVerbatim bytes => exact performed (if_neg h)
  | new => exact performed (if_pos (not_not.1 h))
  | wake => exact performed (if_pos (not_not.1 h))
  | displayFrame => exact performed (if_pos (not_not.1 h))
  | sleep => exact performed (if_pos (not_not.1 h))
  | clearFrame => exact performed (if_pos ⟨not_not.1 h, hbackground⟩)
  | updateFrame buffer => exact performed (if_pos (not_not.1 h))
  | updateAndDisplayFrame buffer => exact performed (if_pos (not_not.1 h))
  | backgroundColor => exact succeeded (if_pos (not_not.1 h))
  | updateAchromaticFrame buffer => exact of_next (planeWrite_not_rejected h) rfl
  | updateChromaticFrame buffer => exact of_next (planeWrite_not_rejected h) rfl

/-! ### The illegal requests -/


theorem exceedsLimit_iff {limit : Option Nat} {n : Nat} :
    exceedsLimit limit n = true ↔ ∃ l, limit = some l ∧ l < n := by
  cases limit <;> simp [exceedsLimit]

theorem twoPlane_eq_false_iff {c : Config} : c.twoPlane = false ↔ c.profileOps.planeOps = none := by
  simp [Config.twoPlane]

theorem not_acceptsBackground_iff : ¬ acceptsBackground s ↔ s.session = .uninitialized := by
  cases h : s.session <;> simp [acceptsBackground, h]

theorem not_acceptsFrame_iff {buffer : List Byte} :
    ¬ acceptsFrame s buffer ↔ s.session ≠ .ready ∨ buffer.length ≠ s.cfg.len := not_and_or

/-- A request that decodes is illegal where its operation refuses it (30_encoding.md R90): cases 1 to 3 are the
decoder's, and of cases 4 to 7 each operation has its own. -/
theorem illegal_frame_iff {o : Operation} {a : Byte} {v : Operands} (h : o.Takes a v) :
    illegal s (o.frame a v) ↔ Refuses s (o.instr a v) := by
  obtain ⟨ha, hfits⟩ := h
  have hknown : o.number ∈ operationNumbers := mem_operationNumbers_iff.2 ⟨o, rfl⟩
  have hzero : ¬ (o.number ∈ zeroImmediateNumbers ∧ a ≠ 0) := by
    rintro ⟨hk, hne⟩
    rw [number_mem_zeroImmediateNumbers_iff.1 hk] at ha
    exact hne (Immediate.error_zero.1 ha)
  have hrotation : ¬ (o.number = 0x03 ∧ 4 ≤ a.toNat) := by
    rintro ⟨ho, hlarge⟩
    obtain rfl := Operation.number_injective (a₂ := .setRotation) ho
    exact absurd (Immediate.error_rotation.1 ha) (by omega)
  simp only [illegal, Operation.frame, List.cons.injEq, existsAndEq, headerOp_headerWord, headerA_headerWord,
    headerZ_headerWord, hknown, hzero, hrotation, not_true, ne_eq, and_true, true_and, false_or,
    number_mem_colorNumbers_iff, number_mem_readyNumbers_iff, number_mem_frameNumbers_iff]
  cases o with
  | resolve | setRotation | getRotation | rawBytes | sendCommand | sendData | sendCommandWithData | repeatByte
  | reset =>
    simp [Operation.immediate, Operation.number, Operation.instr, Refuses]
  | setPixel | fill =>
    simp [Operation.immediate, Operation.number, Operation.instr, Refuses, Layout.colorOfTag_eq_none_iff]
  | setBackgroundColor | backgroundColor =>
    simp only [Operation.instr, Refuses, not_acceptsBackground_iff, Layout.colorOfTag_eq_none_iff]
    simp [Operation.immediate, Operation.number, or_comm]
  | new | wake | displayFrame | clearFrame | sleep =>
    simp [Operation.immediate, Operation.number, Operation.instr, Refuses]
  | sendDataVerbatim =>
    have hlength := toNat_ofNat_of_fits hfits.2
    simp [Operation.immediate, Operation.number, Operation.instr, Refuses, Operands.words, Operation.format, hlength,
      exceedsLimit_iff, -BitVec.toNat_ofNat]
  | updateFrame | updateAndDisplayFrame =>
    have hlength := toNat_ofNat_of_fits hfits.2
    simp only [Operation.instr, Refuses, not_acceptsFrame_iff]
    simp [Operation.immediate, Operation.number, Operands.words, Operation.format, hlength, -BitVec.toNat_ofNat]
  | updateAchromaticFrame | updateChromaticFrame =>
    have hlength := toNat_ofNat_of_fits hfits.2
    simp only [Operation.instr, Refuses, not_acceptsFrame_iff, twoPlane_eq_false_iff]
    simp [Operation.immediate, Operation.number, Operands.words, Operation.format, hlength, or_left_comm,
      -BitVec.toNat_ofNat]

/-- The header of a request that is not illegal selects an operation (30_encoding.md R90 cases 1 to 4). -/
theorem exists_decodeHeader_of_legal {r : Request} {h : Word} {ws : List Word} (hlegal : ¬ illegal s r)
    (hwords : r.words = h :: ws) : ∃ o, decodeHeader h = .ok o := by
  simp only [illegal, hwords, List.cons.injEq, existsAndEq, true_and, and_true, not_or, not_not, not_and] at hlegal
  obtain ⟨hknown, hz, hzero, hrotation, hcolor, -⟩ := hlegal
  obtain ⟨o, ho⟩ := mem_operationNumbers_iff.1 hknown
  rw [← ho] at hzero hrotation hcolor
  refine ⟨o, decodeHeader_eq_ok_iff.2 ⟨headerA h, by rw [ho, headerWord_of_fields h hz], ?_⟩⟩
  cases hk : o.immediate with
  | zero => exact Immediate.error_zero.2 (hzero (number_mem_zeroImmediateNumbers_iff.2 hk))
  | anyByte => rfl
  | rotation =>
    obtain rfl := Operation.immediate_eq_rotation_iff.1 hk
    exact Immediate.error_rotation.2 (Nat.lt_of_not_le (hrotation rfl))
  | colorTag =>
    have hdepth : (headerA h).toNat < 2 ^ s.cfg.layout.bitDepth :=
      Nat.lt_of_not_le (hcolor (number_mem_colorNumbers_iff.2 hk))
    exact Immediate.error_colorTag.2 (decide_eq_true (hdepth.trans_le s.cfg.layout.two_pow_bitDepth_le))

/-- A request that fits its format and is not illegal is a frame the decoder takes (30_encoding.md R76, R90). -/
theorem exists_frame_of_framed_of_legal {r : Request} (hframed : framed r) (hlegal : ¬ illegal s r) :
    ∃ o a v, Operation.Takes o a v ∧ r = o.frame a v := by
  obtain ⟨words, payload⟩ := r
  cases words with
  | nil => simp [framed] at hframed
  | cons h ws =>
    obtain ⟨o, hheader⟩ := exists_decodeHeader_of_legal hlegal rfl
    obtain ⟨a, rfl, ha⟩ := decodeHeader_eq_ok_iff.1 hheader
    obtain ⟨v, hoperands⟩ := exists_operands_of_framed hframed
    obtain ⟨hfits, rfl, rfl⟩ := Format.operands_eq_some_iff.1 hoperands
    exact ⟨o, a, v, ⟨ha, hfits⟩, rfl⟩

end

end Sys2Proof.Machine

namespace Sys2Proof.Proofs

open Sys2Proof.Machine Sys2Proof.Claims

/-- Settles O8: the decoder turns an illegal request away, or the operation it decodes to refuses it. -/
theorem illegalRequestsAreRejected : Obligations.IllegalRequestsAreRejected := by
  intro s r rest hc hb hr hillegal
  cases hd : decodeRequest r with
  | error e => exact step_of_turnedAway (acceptance_of_decode_error hc hb hr hd)
  | ok i =>
    obtain ⟨o, a, v, htakes, rfl, rfl⟩ := decodeRequest_eq_ok_iff.1 hd
    have hrefuses : Refuses (s.accept rest) (o.instr a v) := refuses_accept.2 ((illegal_frame_iff htakes).1 hillegal)
    exact (step_of_run (acceptance_of_decode_ok hc hb hr hd)).trans (exec_of_refuses hrefuses)

/-- Settles O9: a framed and legal request decodes to an instruction its operation does not refuse, which has a next
state as the invariant holds. -/
theorem legalRequestsAreNotRejected : Obligations.LegalRequestsAreNotRejected := by
  intro s r rest hs hr hframed hlegal
  obtain ⟨o, a, v, htakes, rfl⟩ := exists_frame_of_framed_of_legal hframed hlegal
  have hd : decodeRequest (o.frame a v) = .ok (o.instr a v) := decodeRequest_eq_ok_iff.2 ⟨o, a, v, htakes, rfl, rfl⟩
  have hrefuses : ¬ Refuses (s.accept rest) (o.instr a v) :=
    fun h => hlegal ((illegal_frame_iff htakes).2 (refuses_accept.1 h))
  have hstep := step_of_run (acceptance_of_decode_ok hs.config hs.idle hr hd)
  obtain ⟨t, ht⟩ := exec_total (o.instr a v) (hs.accept rest).sound
  exact ⟨t, hstep.trans ht, exec_not_rejected hrefuses hs.background ht⟩

end Sys2Proof.Proofs

/-! ## The resolver: the rotation, the packing, and the pair of every pixel (40_resolver.md)

The rotation has an inverse on the integers and the packing is injective on the native area, so a resolved pair determines
the logical point; `resolve_eq_some_iff` reads RESOLVE's answer as these two steps. -/

namespace Sys2Proof.Machine

open Sys2Proof.Claims

section

variable {c : Config} {rot : Rotation} {x y : Int}

/-! ### The rotation and the bounds check -/

theorem inBounds_iff_insideArea : inBounds c rot x y ↔ insideArea c rot x y := by
  cases rot <;> exact and_assoc

/-- The rotation is the table of 40_resolver.md R101. -/
theorem deviceCoordinates_iff {nx ny : Int} :
    deviceCoordinates c rot x y nx ny ↔ rotatePoint c rot x y = (nx, ny) := by
  cases rot <;> simp [deviceCoordinates, rotatePoint, eq_comm]

/-- The bounds check on the rotated point, the equivalent form of 40_resolver.md R102. -/
theorem inBounds_iff_rotatePoint :
    inBounds c rot x y ↔ 0 ≤ x ∧ 0 ≤ y ∧ 0 ≤ (rotatePoint c rot x y).1 ∧ (rotatePoint c rot x y).1 < c.width ∧
      0 ≤ (rotatePoint c rot x y).2 ∧ (rotatePoint c rot x y).2 < c.height := by
  cases rot <;> simp only [inBounds, logicalWidth, logicalHeight, rotatePoint] <;> omega

/-- The inverse table undoes the rotation at every integer point, in bounds or not (40_resolver.md R109). -/
theorem unrotatePoint_rotatePoint :
    unrotatePoint c rot (rotatePoint c rot x y).1 (rotatePoint c rot x y).2 = (x, y) := by
  cases rot <;> simp only [rotatePoint, unrotatePoint, sub_sub_cancel]

theorem rotatePoint_injective {x' y' : Int} (h : rotatePoint c rot x y = rotatePoint c rot x' y') :
    x = x' ∧ y = y' := by
  have hpoint : (x, y) = (x', y') := by
    rw [← unrotatePoint_rotatePoint (c := c) (rot := rot), h, unrotatePoint_rotatePoint]
  exact Prod.mk.inj hpoint

/-- A rotation exchanges the sides of the area or keeps them. -/
theorem logicalWidth_mul_logicalHeight (c : Config) (rot : Rotation) :
    logicalWidth c rot * logicalHeight c rot = c.width * c.height := by
  cases rot with
  | rotate0 | rotate180 => rfl
  | rotate90 | rotate270 => exact Nat.mul_comm _ _

theorem devicePoint_eq_some_iff {p : Nat × Nat} :
    devicePoint c rot x y = some p ↔ inBounds c rot x y ∧ rotatePoint c rot x y = (↑p.1, ↑p.2) := by
  unfold devicePoint
  split
  · rename_i hin
    obtain ⟨-, -, hnx, -, hny, -⟩ := inBounds_iff_rotatePoint.1 hin
    rw [Option.some_inj, and_iff_right hin, Prod.ext_iff, Prod.ext_iff]
    omega
  · rename_i hout
    simp [hout]

/-! ### The packing -/

/-- In row-major addressing the index determines the row and the column. -/
theorem rowMajor_injective {w q r q' r' : Nat} (hr : r < w) (hr' : r' < w) (h : w * q + r = w * q' + r') :
    q = q' ∧ r = r' := by
  have hw : 0 < w := Nat.zero_lt_of_lt hr
  obtain ⟨hq, hm⟩ := (Nat.div_mod_unique hw).2 ⟨(Nat.add_comm r _).trans h, hr⟩
  obtain ⟨hq', hm'⟩ := (Nat.div_mod_unique hw).2 ⟨Nat.add_comm r' _, hr'⟩
  exact ⟨hq.symm.trans hq', hm.symm.trans hm'⟩

theorem one_shiftLeft_eq_ofNat (k : Nat) : 1#8 <<< k = BitVec.ofNat 8 (2 ^ k) := by
  simp [← BitVec.toNat_inj, Nat.shiftLeft_eq]

theorem c0_ushiftRight_eq_ofNat (k : Nat) : 0xC0#8 >>> k = BitVec.ofNat 8 (0xC0 / 2 ^ k) := by
  have hlt : 0xC0 / 2 ^ k < 2 ^ 8 := (Nat.div_le_self _ _).trans_lt (by decide)
  rw [← BitVec.toNat_inj, BitVec.toNat_ushiftRight, BitVec.toNat_ofNat, BitVec.toNat_ofNat, Nat.mod_eq_of_lt hlt,
    Nat.shiftRight_eq_div_pow]

/-- The packing is the pair of 40_resolver.md R103 to R105. -/
theorem packPoint_eq_pairOf (c : Config) (nx ny : Nat) : packPoint c nx ny = pairOf c nx ny := by
  unfold packPoint pairOf
  cases c.layout with
  | l1 | y2 => simp only [one_shiftLeft_eq_ofNat]
  | x2 => simp only [c0_ushiftRight_eq_ofNat]

/-- Each of the eight one-bit masks of a byte is another one. -/
theorem bitMask_injective : ∀ k < 8, ∀ k' < 8, 1#8 <<< k = 1#8 <<< k' → k = k' := by decide

/-- Each of the four field masks of an `X2` byte is another one. -/
theorem fieldMask_injective : ∀ k < 4, ∀ k' < 4, 0xC0#8 >>> (k * 2) = 0xC0#8 >>> (k' * 2) → k = k' := by decide

/-- No two pixels of the native area share a field (40_resolver.md R108): the index gives the row of bytes and the byte
in it, the mask the place in the byte. -/
theorem packPoint_injective {nx ny nx' ny' : Nat} (hc : c.wellFormed = true) (hx : nx < c.width) (hx' : nx' < c.width)
    (h : packPoint c nx ny = packPoint c nx' ny') : nx = nx' ∧ ny = ny' := by
  obtain ⟨-, -, -, hw, -⟩ := Config.geometry_of_wellFormed hc
  cases hl : c.layout with
  | l1 =>
    simp only [packPoint, hl, Resolved.mk.injEq] at h
    obtain ⟨hindex, hmask⟩ := h
    have hcol : ∀ {n}, n < c.width → n / 8 < ceilDiv c.width 8 := by unfold ceilDiv; omega
    obtain ⟨hrow, hbyte⟩ := rowMajor_injective (hcol hx) (hcol hx') hindex
    have hbit := bitMask_injective _ (by omega) _ (by omega) hmask
    omega
  | x2 =>
    simp only [packPoint, hl, Resolved.mk.injEq, Nat.add_comm _ (c.width / 4 * _)] at h
    obtain ⟨hindex, hmask⟩ := h
    have hw := hw (.inl hl)
    obtain ⟨hrow, hbyte⟩ := rowMajor_injective (by omega) (by omega) hindex
    have hfield := fieldMask_injective _ (by omega) _ (by omega) hmask
    omega
  | y2 =>
    simp only [packPoint, hl, Resolved.mk.injEq] at h
    obtain ⟨hindex, hmask⟩ := h
    obtain ⟨hband, hcol⟩ := rowMajor_injective (by omega) (by omega) hindex
    have hbit := bitMask_injective _ (by omega) _ (by omega) hmask
    omega

/-! ### The resolved pair -/

theorem resolve_eq_some_iff {r : Resolved} :
    resolve c rot x y = some r ↔ ∃ p, devicePoint c rot x y = some p ∧ packPoint c p.1 p.2 = r :=
  Option.map_eq_some_iff

theorem resolve_isSome_iff : (resolve c rot x y).isSome = true ↔ insideArea c rot x y := by
  rw [resolve, Option.isSome_map, devicePoint, Option.isSome_ite, inBounds_iff_insideArea]

/-- A resolved pair determines the logical point (40_resolver.md R108). -/
theorem resolve_injective {x' y' : Int} {r : Resolved} (hc : c.wellFormed = true) (h : resolve c rot x y = some r)
    (h' : resolve c rot x' y' = some r) : x = x' ∧ y = y' := by
  obtain ⟨p, hp, rfl⟩ := resolve_eq_some_iff.1 h
  obtain ⟨p', hp', hpair⟩ := resolve_eq_some_iff.1 h'
  obtain ⟨hnx, hny⟩ := packPoint_injective hc (devicePoint_lt hp').1 (devicePoint_lt hp).1 hpair
  have hrot := (devicePoint_eq_some_iff.1 hp).2
  have hrot' := (devicePoint_eq_some_iff.1 hp').2
  rw [hnx, hny] at hrot'
  exact rotatePoint_injective (hrot.trans hrot'.symm)

/-- The points of the logical area resolve to as many pairs as there are pixels (40_resolver.md R108). -/
theorem card_image_resolve (hc : c.wellFormed = true) (rot : Rotation) :
    ((Finset.range (logicalWidth c rot) ×ˢ Finset.range (logicalHeight c rot)).image
      fun p => resolve c rot p.1 p.2).card = c.width * c.height := by
  rw [Finset.card_image_of_injOn, Finset.card_product, Finset.card_range, Finset.card_range,
    logicalWidth_mul_logicalHeight]
  rintro ⟨i, j⟩ hij ⟨i', j'⟩ - heq
  simp only [Finset.coe_product, Finset.coe_range, Set.mem_prod, Set.mem_Iio] at hij
  have hin : inBounds c rot i j := by simp [inBounds, hij.1, hij.2]
  obtain ⟨r, hr⟩ := Option.isSome_iff_exists.1 (resolve_isSome_iff.2 (inBounds_iff_insideArea.1 hin))
  obtain ⟨hi, hj⟩ := resolve_injective hc hr (heq.symm.trans hr)
  exact Prod.ext (Int.natCast_inj.1 hi) (Int.natCast_inj.1 hj)

end

/-- RESOLVE answers what the resolver says and writes nothing (40_resolver.md R106). -/
theorem exec_resolve (x y : Int) (s : State) :
    exec (.resolve x y) s = .next (done s .ok (.address (resolve s.cfg s.rotation x y))) := rfl

end Sys2Proof.Machine

namespace Sys2Proof.Proofs

open Sys2Proof.Machine Sys2Proof.Claims

/-- Settles O13: outside the area the resolver answers `none`, and inside it the pair of the rotated point, which lies in
the native area. -/
theorem resolveAnswersThePackedDevicePoint : Obligations.ResolveAnswersThePackedDevicePoint := by
  intro x y s
  refine ⟨rfl, fun hout => ?_, fun hin => ?_⟩
  · rw [exec_resolve, Option.not_isSome_iff_eq_none.1 (mt resolve_isSome_iff.1 hout)]
  · obtain ⟨r, hr⟩ := Option.isSome_iff_exists.1 (resolve_isSome_iff.2 hin)
    obtain ⟨⟨nx, ny⟩, hp, rfl⟩ := resolve_eq_some_iff.1 hr
    obtain ⟨hx, hy⟩ := devicePoint_lt hp
    refine ⟨nx, ny, deviceCoordinates_iff.2 (devicePoint_eq_some_iff.1 hp).2, hx, hy, ?_⟩
    rw [exec_resolve, hr, packPoint_eq_pairOf]

/-- Settles O15: the device point of a resolved point lies in the native area, whose bytes exist. -/
theorem resolvedIndexIsInRange : Obligations.ResolvedIndexIsInRange := by
  intro c rot x y r hc hr
  obtain ⟨p, hp, rfl⟩ := resolve_eq_some_iff.1 hr
  obtain ⟨hx, hy⟩ := devicePoint_lt hp
  exact packPoint_index_lt hc hx hy

/-- Settles O16: a pair determines its point, so the pairs are as many as the points of the area. -/
theorem pixelsDoNotShareFields : Obligations.PixelsDoNotShareFields := by
  intro c rot hc
  exact ⟨fun _ _ _ _ _ => resolve_injective hc, card_image_resolve hc rot, fun _ _ => resolve_isSome_iff⟩

/-- Settles O14: the rotated point is the one point with the coordinates of the table. -/
theorem boundsFormsAgree : Obligations.BoundsFormsAgree := by
  intro c rot x y
  refine ⟨inBounds_iff_insideArea, fun hin nx ny hcoords => ?_, fun h => ?_⟩
  · simpa only [deviceCoordinates_iff.1 hcoords] using inBounds_iff_rotatePoint.1 (inBounds_iff_insideArea.2 hin)
  · exact inBounds_iff_insideArea.1 (inBounds_iff_rotatePoint.2 (h _ _ (deviceCoordinates_iff.2 rfl)))

/-- Settles O17: the inverse table undoes the rotation, and it is the model's table row by row. -/
theorem inverseRotationRecoversThePoint : Obligations.InverseRotationRecoversThePoint := by
  intro c rot x y _
  exact ⟨unrotatePoint_rotatePoint, fun _ _ => ⟨rfl, rfl, rfl, rfl⟩⟩

end Sys2Proof.Proofs

/-! ## The pixel buffer: the bytes SET_PIXEL and FILL leave, and what a pixel's field then holds (41_pixelbuffer.md)

`setPixel_writes` and `exec_fill` say what the two operations leave. On the pixel's mask a byte written by SET_PIXEL is
the fill byte of the color (`pixelByte_and_mask`), so that one lemma, `fieldOf_fillWith`, reads the color back after
either. -/

namespace Sys2Proof

/-! ### The colors a buffer of each depth holds -/

/-- A buffer of one bit a pixel holds the Monochrome colors (10_state.md R25). -/
theorem Layout.holds_l1_iff {color : ColorValue} : Layout.l1.holds color = true ↔ ∃ m, color = .mono m := by
  cases color <;> simp [Layout.holds, Layout.bitDepth]

/-- A buffer of two bits a pixel holds the Gray2 colors (10_state.md R25). -/
theorem Layout.holds_iff_gray {l : Layout} {color : ColorValue} (hl : l.bitDepth = 2) :
    l.holds color = true ↔ ∃ g, color = .gray g := by
  cases color <;> simp [Layout.holds, hl]

/-- The inverse mapping gives the color back that the buffer's depth holds (10_state.md R28). -/
theorem Config.unpattern_pattern {c : Config} {color : ColorValue} (hc : c.wellFormed = true)
    (hcolor : c.layout.holds color = true) : c.unpattern (c.pattern color) = some color := by
  have hgray (hdepth : c.layout.bitDepth = 2) : (c.unpat2 (c.pattern color)).map .gray = some color := by
    obtain ⟨g, rfl⟩ := (Layout.holds_iff_gray hdepth).1 hcolor
    simp [Config.pattern, c.unpat2_pat2 (Config.lawful_of_wellFormed hc)]
  unfold Config.unpattern
  cases hl : c.layout with
  | l1 =>
    obtain ⟨m, rfl⟩ := Layout.holds_l1_iff.1 (hl ▸ hcolor)
    cases m <;> rfl
  | x2 | y2 => exact hgray (by rw [hl]; rfl)

/-- The pattern of a Monochrome color tells `On` from `Off` (10_state.md R26). -/
theorem Config.pattern_mono (c : Config) (m : Mono) :
    c.pattern (.mono m) = if c.pattern (.mono m) == 1 then 1 else 0 := by
  cases m <;> rfl

/-- The two tags of a buffer of one bit a pixel (30_encoding.md R79). -/
theorem Layout.colorOfTag_l1 {tag : ColorTag} (h : tag = 0 ∨ tag = 1) :
    Layout.l1.colorOfTag tag = some (.mono (if tag = 1 then .on else .off)) := by
  rcases h with rfl | rfl <;> rfl

/-- The plane bits by the order of the planes (41_pixelbuffer.md R123). -/
theorem PlaneOrder.planes_eq (o : PlaneOrder) (p : BitVec 2) :
    o.planes p = (if o = .msbFirst then p.getLsbD 1 else p.getLsbD 0,
      if o = .msbFirst then p.getLsbD 0 else p.getLsbD 1) := by
  cases o <;> rfl

/-- The pattern bit of a plane's bytes: the more significant one where the order and the parity of the index agree
(41_pixelbuffer.md R126). -/
theorem solidByte_planes (o : PlaneOrder) (p : BitVec 2) (i : Nat) :
    (if i % 2 = 0 then solidByte (o.planes p).1 else solidByte (o.planes p).2) =
      if p.getLsbD (if (o = .msbFirst) ↔ i % 2 = 0 then 1 else 0) then 0xFF else 0x00 := by
  by_cases hi : i % 2 = 0
  · simp only [hi]
    cases o <;> rfl
  · simp only [hi]
    cases o <;> rfl

/-- Four equal fields of a byte, written as a product and as their concatenation (41_pixelbuffer.md R126). -/
theorem mul_0x55_eq_append : ∀ p : BitVec 2, p.setWidth 8 * 0x55 = p ++ p ++ p ++ p := by decide

end Sys2Proof

namespace Sys2Proof.Machine

open Sys2Proof.Claims

/-! ### The bits of a byte under a mask -/

theorem solidByte_true_and (m : Byte) : solidByte true &&& m = m := BitVec.allOnes_and

theorem solidByte_false_and (m : Byte) : solidByte false &&& m = 0 := BitVec.zero_and

/-- To set or clear the bits of a mask is to replace them by bits all alike. -/
theorem setOrClear_eq_replace (bit : Bool) (b m : Byte) :
    setOrClear bit b m = b &&& ~~~m ||| solidByte bit &&& m := by
  cases bit with
  | false => simp [setOrClear, solidByte_false_and]
  | true =>
    rw [solidByte_true_and]
    ext i
    simp only [setOrClear, if_true, BitVec.getElem_and, BitVec.getElem_or, BitVec.getElem_not]
    grind

/-- Under the mask a byte with those bits replaced holds what replaced them. -/
theorem replace_and_mask (b q m : Byte) : (b &&& ~~~m ||| q &&& m) &&& m = q &&& m := by
  ext i
  simp only [BitVec.getElem_and, BitVec.getElem_or, BitVec.getElem_not]
  grind

/-- Outside the mask a byte with those bits replaced keeps its bits. -/
theorem replace_and_not_mask (b q m : Byte) : (b &&& ~~~m ||| q &&& m) &&& ~~~m = b &&& ~~~m := by
  ext i
  simp only [BitVec.getElem_and, BitVec.getElem_or, BitVec.getElem_not]
  grind

/-- Bytes alike outside a mask are alike under every mask disjoint from it. -/
theorem and_eq_of_disjoint {a b m m' : Byte} (h : a &&& ~~~m = b &&& ~~~m) (hm : m &&& m' = 0) :
    a &&& m' = b &&& m' := by
  have hsub : ~~~m &&& m' = m' := by
    ext i hi
    have hbit := congrArg (·[i]) hm
    simp only [BitVec.getElem_and, BitVec.getElem_not] at hbit ⊢
    grind
  rw [← hsub, ← BitVec.and_assoc, h, BitVec.and_assoc]

/-! ### The masks of two pixels -/

theorem bitMask_ne_zero : ∀ k < 8, 1#8 <<< k ≠ 0 := by decide

theorem fieldMask_ne_zero : ∀ k < 4, 0xC0#8 >>> (k * 2) ≠ 0 := by decide

theorem bitMask_disjoint : ∀ k < 8, ∀ k' < 8, 1#8 <<< k ≠ 1#8 <<< k' → 1#8 <<< k &&& 1#8 <<< k' = 0 := by decide

theorem fieldMask_disjoint : ∀ k < 4, ∀ k' < 4, 0xC0#8 >>> (k * 2) ≠ 0xC0#8 >>> (k' * 2) →
    0xC0#8 >>> (k * 2) &&& 0xC0#8 >>> (k' * 2) = 0 := by
  decide

/-- The mask of a device point holds a bit (40_resolver.md R103 to R105). -/
theorem packPoint_mask_ne_zero (c : Config) (nx ny : Nat) : (packPoint c nx ny).bitMask ≠ 0 := by
  unfold packPoint
  cases c.layout with
  | l1 | y2 => exact bitMask_ne_zero _ (by omega)
  | x2 => exact fieldMask_ne_zero _ (by omega)

/-- The masks of two device points are equal or disjoint. -/
theorem packPoint_mask_disjoint {c : Config} {nx ny nx' ny' : Nat}
    (h : (packPoint c nx ny).bitMask ≠ (packPoint c nx' ny').bitMask) :
    (packPoint c nx ny).bitMask &&& (packPoint c nx' ny').bitMask = 0 := by
  unfold packPoint at h ⊢
  cases hl : c.layout with
  | l1 | y2 =>
    simp only [hl] at h ⊢
    exact bitMask_disjoint _ (by omega) _ (by omega) h
  | x2 =>
    simp only [hl] at h ⊢
    exact fieldMask_disjoint _ (by omega) _ (by omega) h

/-- The first of the two bytes of a `Y2` pixel has an even index (40_resolver.md R105). -/
theorem packPoint_index_even {c : Config} (hl : c.layout = .y2) (nx ny : Nat) :
    (packPoint c nx ny).byteIndex % 2 = 0 := by
  simp only [packPoint, hl]
  rw [Nat.mul_right_comm]
  omega

/-! ### One byte through SET_PIXEL -/

/-- What the byte at index `a`, which held `b`, holds after the color is written to the device point (41_pixelbuffer.md
R121 to R123). -/
def pixelByte (c : Config) (color : ColorValue) (nx ny a : Nat) (b : Byte) : Byte :=
  let r := packPoint c nx ny
  let p := c.pattern color
  match c.layout with
  | .l1 => if a = r.byteIndex then setOrClear (p == 1) b r.bitMask else b
  | .x2 =>
    if a = r.byteIndex then b &&& ~~~r.bitMask ||| (p.setWidth 8 <<< (6 - nx % 4 * 2)) &&& r.bitMask else b
  | .y2 =>
    if a = r.byteIndex then setOrClear (c.y2PlaneOrder.planes p).1 b r.bitMask
    else if a = r.byteIndex + 1 then setOrClear (c.y2PlaneOrder.planes p).2 b r.bitMask
    else b

/-- A byte write at an index that exists: the framebuffer alone changes, at that index alone, and stays canonical. -/
theorem memWrite_writes {s : State} {i : Nat} (hfb : Memory.wf s.cfg.resetByte s.cfg.len s.fb) (hi : i < s.cfg.len)
    (v : Byte) : ∃ t, s.memWrite i v = .ok t ∧ t = { s with fb := t.fb } ∧
      Memory.wf s.cfg.resetByte s.cfg.len t.fb ∧ ∀ a, t.byteAt a = if a = i then v else s.byteAt a :=
  ⟨_, State.memWrite_of_lt v hi, rfl, Memory.write_wf hfb hi v, Memory.read_write hfb.1 i v⟩

/-- A pixel write in the native area: the framebuffer alone changes, to `pixelByte` at every index. -/
theorem writePixel_writes {s : State} (color : ColorValue) {nx ny : Nat} (hs : sound s) (hx : nx < s.cfg.width)
    (hy : ny < s.cfg.height) : ∃ t, s.writePixel color nx ny = .ok t ∧ t = { s with fb := t.fb } ∧
      ∀ a, t.byteAt a = pixelByte s.cfg color nx ny a (s.byteAt a) := by
  obtain ⟨hc, hfb⟩ := hs
  obtain ⟨hfirst, hsecond⟩ := packPoint_index_lt hc hx hy
  unfold State.writePixel pixelByte
  cases hl : s.cfg.layout with
  | l1 | x2 =>
    simp only [State.memRead_of_lt hfirst, bind, Except.bind]
    obtain ⟨t, ht, hframe, -, hbytes⟩ := memWrite_writes hfb hfirst _
    refine ⟨t, ht, hframe, fun a => (hbytes a).trans ?_⟩
    by_cases ha : a = (packPoint s.cfg nx ny).byteIndex
    · rw [if_pos ha, if_pos ha, ha]
    · rw [if_neg ha, if_neg ha]
  | y2 =>
    simp only [State.memRead_of_lt hfirst, bind, Except.bind]
    obtain ⟨u, hu, huframe, hufb, hubytes⟩ := memWrite_writes hfb hfirst _
    have hucfg : u.cfg = s.cfg := by rw [huframe]
    have hlast : (packPoint s.cfg nx ny).byteIndex + 1 < u.cfg.len := hucfg ▸ hsecond hl
    obtain ⟨t, ht, hframe, -, hbytes⟩ := memWrite_writes (hucfg ▸ hufb) hlast _
    rw [hu]
    simp only [State.memRead_of_lt hlast]
    refine ⟨t, ht, by rw [hframe, huframe], fun a => (hbytes a).trans ?_⟩
    rw [hubytes, hubytes]
    by_cases ha : a = (packPoint s.cfg nx ny).byteIndex
    · rw [if_neg (by omega), if_pos ha, if_pos ha, ha]
    · by_cases ha' : a = (packPoint s.cfg nx ny).byteIndex + 1
      · rw [if_pos ha', if_neg ha, if_pos ha', if_neg (by omega), ha']
      · rw [if_neg ha', if_neg ha, if_neg ha, if_neg ha']

/-- The byte at index `a` holds bits of the pixel of the pair: its byte, and in `Y2` the next one too (40_resolver.md
R110). -/
def IsByteOf (c : Config) (r : Resolved) (a : Nat) : Prop :=
  a = r.byteIndex ∨ (c.layout = .y2 ∧ a = r.byteIndex + 1)

theorem IsByteOf.lt_len {c : Config} {r : Resolved} {a : Nat} (h : IsByteOf c r a)
    (hr : r.byteIndex < c.len ∧ (c.layout = .y2 → r.byteIndex + 1 < c.len)) : a < c.len := by
  rcases h with rfl | ⟨hl, rfl⟩
  · exact hr.1
  · exact hr.2 hl

section
variable {c : Config} {color : ColorValue} {nx ny a : Nat} {b : Byte}

/-- A pixel write can change the bits of the pixel's mask alone (41_pixelbuffer.md R121 to R123). -/
theorem pixelByte_and_not_mask :
    pixelByte c color nx ny a b &&& ~~~(packPoint c nx ny).bitMask = b &&& ~~~(packPoint c nx ny).bitMask := by
  unfold pixelByte
  cases c.layout with
  | l1 | x2 | y2 =>
    simp only [setOrClear_eq_replace, apply_ite (· &&& ~~~(packPoint c nx ny).bitMask), replace_and_not_mask, ite_self]

/-- A pixel write changes no byte but the pixel's own. -/
theorem pixelByte_of_not_isByteOf (ha : ¬ IsByteOf c (packPoint c nx ny) a) : pixelByte c color nx ny a b = b := by
  obtain ⟨hfirst, hsecond⟩ := not_or.1 ha
  unfold pixelByte
  cases hl : c.layout with
  | l1 | x2 => exact if_neg hfirst
  | y2 => simp only [if_neg hfirst, if_neg fun h => hsecond ⟨hl, h⟩]

/-- The field of a pattern in an `X2` byte is the field of the byte with four such fields. -/
theorem shiftLeft_and_fieldMask : ∀ (p : BitVec 2), ∀ k < 4,
    (p.setWidth 8 <<< (6 - k * 2)) &&& 0xC0#8 >>> (k * 2) = (p.setWidth 8 * 0x55) &&& 0xC0#8 >>> (k * 2) := by
  decide

/-- On the pixel's mask the bytes of the pixel are the fill bytes of its color (41_pixelbuffer.md R126). -/
theorem pixelByte_and_mask (ha : IsByteOf c (packPoint c nx ny) a) :
    pixelByte c color nx ny a b &&& (packPoint c nx ny).bitMask =
      c.fillByte color a &&& (packPoint c nx ny).bitMask := by
  unfold pixelByte Config.fillByte
  cases hl : c.layout with
  | l1 =>
    obtain rfl := ha.resolve_right (by simp [hl])
    simp only [if_true, setOrClear_eq_replace, replace_and_mask]
  | x2 =>
    obtain rfl := ha.resolve_right (by simp [hl])
    simp only [if_true, replace_and_mask]
    simp only [packPoint, hl]
    exact shiftLeft_and_fieldMask _ _ (by omega)
  | y2 =>
    have heven := packPoint_index_even hl nx ny
    rcases ha with rfl | ⟨-, rfl⟩
    · simp only [if_true, heven, setOrClear_eq_replace, replace_and_mask]
    · have hodd : ¬ ((packPoint c nx ny).byteIndex + 1) % 2 = 0 := by omega
      simp only [if_true, Nat.succ_ne_self, if_false, hodd, setOrClear_eq_replace, replace_and_mask]

end

/-! ### What a pixel's field holds -/

/-- A field depends on the bits of its mask alone. -/
theorem fieldOf_congr {s t : State} {r : Resolved} (hcfg : t.cfg = s.cfg)
    (h : ∀ a, IsByteOf s.cfg r a → t.byteAt a &&& r.bitMask = s.byteAt a &&& r.bitMask) :
    fieldOf t r = fieldOf s r := by
  unfold fieldOf
  rw [hcfg, h _ (.inl rfl)]
  cases hl : s.cfg.layout with
  | l1 | x2 => rfl
  | y2 => rw [h _ (.inr ⟨hl, rfl⟩)]

theorem byteAt_fillWith (s : State) (f : Nat → Byte) {a : Nat} (ha : a < s.cfg.len) : (s.fillWith f).byteAt a = f a :=
  (Memory.read_fill f a).trans (if_pos ha)

/-- A byte with every bit alike shows its bit under every mask. -/
theorem solidByte_and_ne_zero {m : Byte} (hm : m ≠ 0) (bit : Bool) : (solidByte bit &&& m ≠ 0) ↔ bit = true := by
  cases bit with
  | false => simp [solidByte_false_and]
  | true =>
    rw [solidByte_true_and]
    exact iff_of_true hm rfl

theorem decide_solidByte_and_ne_zero {m : Byte} (hm : m ≠ 0) (bit : Bool) :
    decide (solidByte bit &&& m ≠ 0) = bit :=
  Bool.eq_iff_iff.2 (decide_eq_true_iff.trans (solidByte_and_ne_zero hm bit))

/-- Each of the four fields of an `X2` fill byte is the pattern. -/
theorem field_fillByte_x2 : ∀ (p : BitVec 2), ∀ k < 4,
    ((p.setWidth 8 * 0x55 &&& 0xC0#8 >>> (k * 2)) >>> fieldShift (0xC0#8 >>> (k * 2))).setWidth 2 = p := by
  decide

/-- A pattern is put together from its two bits. -/
theorem ofBool_append_ofBool : ∀ p : BitVec 2, BitVec.ofBool (p.getLsbD 1) ++ BitVec.ofBool (p.getLsbD 0) = p := by
  decide

/-- After a fill with a color the field of every pixel of the native area holds the color's pattern. -/
theorem fieldOf_fillWith {s : State} {color : ColorValue} {nx ny : Nat} (hc : s.cfg.wellFormed = true)
    (hcolor : s.cfg.layout.holds color = true) (hx : nx < s.cfg.width) (hy : ny < s.cfg.height) :
    fieldOf (s.fillWith (s.cfg.fillByte color)) (packPoint s.cfg nx ny) = s.cfg.pattern color := by
  obtain ⟨hfirst, hsecond⟩ := packPoint_index_lt hc hx hy
  have hm := packPoint_mask_ne_zero s.cfg nx ny
  unfold fieldOf
  rw [byteAt_fillWith _ _ hfirst, State.fillWith_cfg]
  cases hl : s.cfg.layout with
  | l1 =>
    obtain ⟨m, rfl⟩ := Layout.holds_l1_iff.1 (hl ▸ hcolor)
    rw [s.cfg.pattern_mono m]
    simp only [Config.fillByte, hl, solidByte_and_ne_zero hm]
  | x2 =>
    simp only [Config.fillByte, packPoint, hl]
    exact field_fillByte_x2 _ _ (by omega)
  | y2 =>
    have heven := packPoint_index_even hl nx ny
    have hodd : ¬ ((packPoint s.cfg nx ny).byteIndex + 1) % 2 = 0 := by omega
    rw [byteAt_fillWith _ _ (hsecond hl)]
    simp only [Config.fillByte, hl, heven, hodd, if_true, if_false, decide_solidByte_and_ne_zero hm]
    cases s.cfg.y2PlaneOrder with
    | msbFirst | lsbFirst => exact ofBool_append_ofBool _

/-- A pixel write leaves the bits of every other pixel (41_pixelbuffer.md R132). -/
theorem pixelByte_and_other_mask {c : Config} {color : ColorValue} {nx ny nx' ny' a : Nat} {b : Byte}
    (hne : packPoint c nx ny ≠ packPoint c nx' ny') (ha : IsByteOf c (packPoint c nx' ny') a) :
    pixelByte c color nx ny a b &&& (packPoint c nx' ny').bitMask = b &&& (packPoint c nx' ny').bitMask := by
  by_cases hindex : (packPoint c nx ny).byteIndex = (packPoint c nx' ny').byteIndex
  · have hmask : (packPoint c nx ny).bitMask ≠ (packPoint c nx' ny').bitMask := fun hmask =>
      hne (congrArg₂ Resolved.mk hindex hmask)
    exact and_eq_of_disjoint pixelByte_and_not_mask (packPoint_mask_disjoint hmask)
  · rw [pixelByte_of_not_isByteOf]
    intro hown
    by_cases hl : c.layout = .y2
    · have heven := packPoint_index_even hl nx ny
      have heven' := packPoint_index_even hl nx' ny'
      simp only [IsByteOf, hl, true_and] at ha hown
      omega
    · simp only [IsByteOf, hl, false_and, or_false] at ha hown
      exact hindex (hown.symm.trans ha)

/-! ### What the operations do -/

/-- SET_PIXEL in bounds with a color of the buffer's depth: the framebuffer alone changes, to `pixelByte` at every index
(41_pixelbuffer.md R120 to R123). -/
theorem setPixel_writes {s : State} {x y : Int} {tag : ColorTag} {color : ColorValue} {nx ny : Nat} (hs : sound s)
    (hcolor : s.cfg.layout.colorOfTag tag = some color) (hp : devicePoint s.cfg s.rotation x y = some (nx, ny)) :
    ∃ t, exec (.setPixel x y tag) s = .next t ∧ (∀ a, t.byteAt a = pixelByte s.cfg color nx ny a (s.byteAt a)) ∧
      t = done { s with fb := t.fb } .ok .nothing := by
  obtain ⟨hx, hy⟩ := devicePoint_lt hp
  obtain ⟨u, hu, hframe, hbytes⟩ := writePixel_writes color hs hx hy
  refine ⟨u.succeed .nothing, by simp only [exec, execSetPixel, hcolor, hp, hu], hbytes, ?_⟩
  rw [hframe]
  rfl

/-- FILL with a color of the buffer's depth (41_pixelbuffer.md R125). -/
theorem exec_fill {s : State} {tag : ColorTag} {color : ColorValue}
    (hcolor : s.cfg.layout.colorOfTag tag = some color) :
    exec (.fill tag) s = .next (done (s.fillWith (s.cfg.fillByte color)) .ok .nothing) := by
  simp only [exec, execFill, hcolor]
  rfl

/-- The loop of byte writes up to `n` leaves the bytes written below `n` and the others as they were (41_pixelbuffer.md
R125). -/
theorem foldlM_memWrite_range {s : State} (f : Nat → Byte) (hfb : Memory.wf s.cfg.resetByte s.cfg.len s.fb) {n : Nat}
    (hn : n ≤ s.cfg.len) : ∃ t, (List.range n).foldlM (fun (t : State) i => t.memWrite i (f i)) s = .ok t ∧
      t = { s with fb := t.fb } ∧ Memory.wf s.cfg.resetByte s.cfg.len t.fb ∧
      ∀ a, t.byteAt a = if a < n then f a else s.byteAt a := by
  induction n with
  | zero => exact ⟨s, rfl, rfl, hfb, fun a => rfl⟩
  | succ n ih =>
    obtain ⟨u, hu, huframe, hufb, hubytes⟩ := ih (Nat.le_of_succ_le hn)
    have hucfg : u.cfg = s.cfg := by rw [huframe]
    obtain ⟨t, ht, hframe, htfb, hbytes⟩ := memWrite_writes (hucfg ▸ hufb) (hucfg ▸ hn : n < u.cfg.len) (f n)
    refine ⟨t, ?_, by rw [hframe, huframe], hucfg ▸ htfb, fun a => ?_⟩
    · rw [List.range_succ, List.foldlM_append, hu]
      exact (bind_pure _).trans ht
    · rw [hbytes, hubytes]
      by_cases ha : a = n
      · rw [if_pos ha, if_pos (by omega), ha]
      · rw [if_neg ha]
        exact if_congr (by omega) rfl rfl

/-- States that differ in canonical framebuffers alone and read alike are equal. -/
theorem eq_of_byteAt_eq {s t u : State} (ht : t = { s with fb := t.fb }) (hu : u = { s with fb := u.fb })
    (htfb : Memory.wf s.cfg.resetByte s.cfg.len t.fb) (hufb : Memory.wf s.cfg.resetByte s.cfg.len u.fb)
    (h : ∀ a < s.cfg.len, t.byteAt a = u.byteAt a) : t = u := by
  have htcfg : t.cfg = s.cfg := by rw [ht]
  have hucfg : u.cfg = s.cfg := by rw [hu]
  simp only [State.byteAt, htcfg, hucfg] at h
  rw [ht, hu, Memory.wf_ext htfb hufb h]

end Sys2Proof.Machine

namespace Sys2Proof.Proofs

open Sys2Proof.Machine Sys2Proof.Claims

/-- Settles O18: the tag names `On` or `Off`, and the byte is the one `pixelByte` gives for it. -/
theorem setPixelOneBit : Obligations.SetPixelOneBit := by
  intro s x y tag nx ny hs hl htag hp
  obtain ⟨t, ht, hbytes, hframe⟩ := setPixel_writes hs (hl ▸ Layout.colorOfTag_l1 htag) hp
  refine ⟨t, ht, ⟨?_, fun a ha => ?_⟩, hframe⟩
  · have hbit : (s.cfg.pattern (.mono (if tag = 1 then .on else .off)) == 1) = decide (tag = 1) := by
      rcases htag with rfl | rfl <;> rfl
    simp only [hbytes, pixelByte, hl, if_true, hbit, setOrClear, decide_eq_true_eq]
  · rw [hbytes, pixelByte_of_not_isByteOf (by simp [IsByteOf, hl, ha])]

/-- Settles O19: the field is replaced, and no other byte is the pixel's. -/
theorem setPixelAlongX : Obligations.SetPixelAlongX := by
  intro s x y tag g nx ny hs hl hcolor hp
  obtain ⟨t, ht, hbytes, hframe⟩ := setPixel_writes hs hcolor hp
  refine ⟨t, ht, ⟨?_, fun a ha => ?_⟩, hframe⟩
  · simp only [hbytes, pixelByte, hl, if_true, Config.pattern]
  · rw [hbytes, pixelByte_of_not_isByteOf (by simp [IsByteOf, hl, ha])]

/-- Settles O20: each plane's bit is set or cleared, and no third byte is the pixel's. -/
theorem setPixelInBothPlanes : Obligations.SetPixelInBothPlanes := by
  intro s x y tag g nx ny hs hl hcolor hp
  obtain ⟨t, ht, hbytes, hframe⟩ := setPixel_writes hs hcolor hp
  refine ⟨t, ht, ⟨?_, ?_, fun a ha ha' => ?_⟩, hframe⟩
  · simp only [hbytes, pixelByte, hl, if_true, PlaneOrder.planes_eq]
    rfl
  · simp only [hbytes, pixelByte, hl, if_true, Nat.succ_ne_self, if_false, PlaneOrder.planes_eq]
    rfl
  · rw [hbytes, pixelByte_of_not_isByteOf (by simp [IsByteOf, ha, ha'])]

/-- Settles O22: on the pixel's mask the bytes are those of a fill with its color, and the mask of another pixel is
disjoint from it or lies in other bytes. -/
theorem pixelReadsBackAndOthersKeep : Obligations.PixelReadsBackAndOthersKeep := by
  intro s x y tag color r hs hcolor hr
  obtain ⟨⟨nx, ny⟩, hp, rfl⟩ := resolve_eq_some_iff.1 hr
  obtain ⟨t, ht, hbytes, hframe⟩ := setPixel_writes hs hcolor hp
  have hcfg : t.cfg = s.cfg := by rw [hframe]; rfl
  have hholds := Layout.holds_colorOfTag hcolor
  have hfield : fieldOf t (packPoint s.cfg nx ny) = s.cfg.pattern color := by
    obtain ⟨hx, hy⟩ := devicePoint_lt hp
    rw [← fieldOf_fillWith hs.1 hholds hx hy]
    refine fieldOf_congr hcfg fun a (ha : IsByteOf s.cfg _ a) => ?_
    rw [hbytes, pixelByte_and_mask ha, byteAt_fillWith _ _ (ha.lt_len (packPoint_index_lt hs.1 hx hy))]
  refine ⟨t, ht, hfield, hfield ▸ Config.unpattern_pattern hs.1 hholds, fun x' y' r' hr' hne => ?_⟩
  obtain ⟨⟨nx', ny'⟩, -, rfl⟩ := resolve_eq_some_iff.1 hr'
  have hpack : packPoint s.cfg nx ny ≠ packPoint s.cfg nx' ny' := fun h =>
    hne (Prod.ext_iff.2 (resolve_injective hs.1 hr' (h ▸ hr)))
  exact fieldOf_congr hcfg fun a ha => by rw [hbytes, pixelByte_and_other_mask hpack ha]

/-- Settles O23: a read after the fill gives the fill byte, and the fill byte is the spec's in each layout. -/
theorem fillWritesEveryByte : Obligations.FillWritesEveryByte := by
  intro s tag color hcolor
  refine ⟨_, exec_fill hcolor, rfl, fun i hi => byteAt_fillWith s _ hi, fun i => ?_⟩
  have hholds := Layout.holds_colorOfTag hcolor
  simp only [Config.fillByte]
  cases hl : s.cfg.layout with
  | l1 =>
    obtain ⟨m, rfl⟩ := Layout.holds_l1_iff.1 (hl ▸ hholds)
    cases m <;> rfl
  | x2 => exact mul_0x55_eq_append _
  | y2 => exact solidByte_planes _ _ i

/-- Settles O24: both sides are canonical and read alike. -/
theorem fillIsTheLoopOfByteWrites : Obligations.FillIsTheLoopOfByteWrites := by
  intro s f hfb
  obtain ⟨t, ht, hframe, htfb, hbytes⟩ := foldlM_memWrite_range f hfb le_rfl
  have hfill : ∀ a < s.cfg.len, t.byteAt a = (s.fillWith f).byteAt a := fun a ha => by
    rw [hbytes, if_pos ha, byteAt_fillWith s f ha]
  rw [ht, eq_of_byteAt_eq hframe (u := s.fillWith f) rfl htfb (Memory.fill_wf f) hfill]

/-- Settles O25: the resolved pair is that of a point of the native area, whose field the fill leaves at the pattern. -/
theorem fillColorsEveryPixel : Obligations.FillColorsEveryPixel := by
  intro s tag color rot x y r hc hcolor hr
  obtain ⟨⟨nx, ny⟩, hp, rfl⟩ := resolve_eq_some_iff.1 hr
  obtain ⟨hx, hy⟩ := devicePoint_lt hp
  exact ⟨_, exec_fill hcolor, fieldOf_fillWith hc (Layout.holds_colorOfTag hcolor) hx hy⟩

/-- Settles O21: the tag names a color, and a point outside the area has no device point. -/
theorem pixelOutOfBoundsIsDropped : Obligations.PixelOutOfBoundsIsDropped := by
  intro s x y tag htag hout
  obtain ⟨color, hcolor⟩ := Option.ne_none_iff_exists'.1
    (mt Layout.colorOfTag_eq_none_iff.1 (Nat.not_le_of_lt htag))
  have hp : devicePoint s.cfg s.rotation x y = none := if_neg (mt inBounds_iff_insideArea.1 hout)
  simp only [exec, execSetPixel, hcolor, hp]
  rfl

/-- Settles O26: the two operations and their encodings, and the number of each rotation. -/
theorem rotationIsSetAndRead : Obligations.RotationIsSetAndRead := by
  refine ⟨rfl, fun rot s => ⟨rfl, rfl⟩, fun s => ?_⟩
  change Host.Outcome.next (done s .ok (.rotation s.rotation.number)) = _
  cases s.rotation <;> rfl

/-- Settles O27: the bytes are read in ascending index, one for each index below `LEN`. -/
theorem rawBytesAnswersTheFramebuffer : Obligations.RawBytesAnswersTheFramebuffer := by
  refine ⟨rfl, fun s => ⟨s.rawBytes, rfl, ?_, fun i hi => ?_⟩⟩
  · simp [State.rawBytes]
  · simp [State.rawBytes, hi]

end Sys2Proof.Proofs

/-! ## The bus multiplexer: the chunks of a payload, and what the send operations put on the bus (42_bus_transport.md)

`chunksOf_getElem?` says what each chunk is. `carriesOut_of_perform` says once that an operation made of acts carries
out their events, `exec_send` that a send operation is made of acts; what the bytes and the lines are after a send is
read off its phases, and `exec_onBus` that no operation but the three of the reset pulse touches anything but the bus. -/

namespace Sys2Proof

/-! ### The chunks of a payload -/

theorem lt_ceilDiv_iff {a b k : Nat} (hb : 0 < b) : k < ceilDiv a b ↔ b * k < a := by
  rw [ceilDiv, ← Nat.succ_le_iff, Nat.le_div_iff_mul_le hb, Nat.succ_mul, Nat.mul_comm k b]
  omega

section
variable {limit fuel : Nat}

/-- The chunks in order are the payload (42_bus_transport.md R145). -/
theorem flatten_chunksOf (hl : 1 ≤ limit) {bytes : List Byte} (hf : bytes.length ≤ fuel) :
    (chunksOf limit fuel bytes).flatten = bytes := by
  induction fuel generalizing bytes with
  | zero => simp [chunksOf, List.length_eq_zero_iff.1 (Nat.le_zero.1 hf)]
  | succ fuel ih =>
    cases bytes with
    | nil => rfl
    | cons b bs =>
      have hrest : ((b :: bs).drop limit).length ≤ fuel := by
        rw [List.length_drop]
        omega
      rw [chunksOf, List.flatten_cons, ih hrest, List.take_append_drop]

/-- The chunk at `k` begins at byte `limit * k`, where there is such a byte (42_bus_transport.md R145). -/
theorem chunksOf_getElem? (hl : 1 ≤ limit) {bytes : List Byte} (hf : bytes.length ≤ fuel) (k : Nat) :
    (chunksOf limit fuel bytes)[k]? =
      if limit * k < bytes.length then some ((bytes.drop (limit * k)).take limit) else none := by
  induction fuel generalizing bytes k with
  | zero => simp [chunksOf, List.length_eq_zero_iff.1 (Nat.le_zero.1 hf)]
  | succ fuel ih =>
    cases bytes with
    | nil => simp [chunksOf]
    | cons b bs =>
      cases k with
      | zero => simp [chunksOf]
      | succ k =>
        have hrest : ((b :: bs).drop limit).length ≤ fuel := by
          rw [List.length_drop]
          omega
        rw [chunksOf, List.getElem?_cons_succ, ih hrest, List.drop_drop, List.length_drop, Nat.mul_succ,
          Nat.add_comm limit]
        exact if_congr (by omega) rfl rfl

/-- There are `ceil(n / L)` chunks (42_bus_transport.md R145). -/
theorem length_chunksOf (hl : 1 ≤ limit) {bytes : List Byte} (hf : bytes.length ≤ fuel) :
    (chunksOf limit fuel bytes).length = ceilDiv bytes.length limit := by
  refine eq_of_forall_lt_iff fun k => ?_
  rw [lt_ceilDiv_iff hl, ← not_le, ← List.getElem?_eq_none_iff, chunksOf_getElem? hl hf]
  simp

end

/-- The chunks in order are the payload, under a limit or none (42_bus_transport.md R145). -/
theorem flatten_splitBytes {limit : Option Nat} (hl : ∀ l, limit = some l → 1 ≤ l) (bytes : List Byte) :
    (splitBytes limit bytes).flatten = bytes := by
  cases limit with
  | none => simp [splitBytes, ← List.flatMap_def]
  | some l => exact flatten_chunksOf (hl l rfl) le_rfl

/-- A chunk limit of a well-formed configuration lets a byte through (00_scope.md R8). -/
theorem Config.one_le_chunkLimit {c : Config} (h : c.wellFormed = true) {l : Nat} (hl : c.chunkLimit = some l) :
    1 ≤ l := by
  simp only [Config.wellFormed, Bool.and_eq_true, hl, decide_eq_true_eq] at h
  obtain ⟨⟨⟨-, hlimit⟩, -⟩, -⟩ := h
  exact hlimit

end Sys2Proof

namespace Sys2Proof.Machine

open Sys2Proof.Claims

/-! ### The events of the send operations -/

theorem map_event_sendCommandActs (opcode : Byte) : (sendCommandActs opcode).map Act.event = commandEvents opcode := rfl

/-- A phase leaves its drive and one event for each transfer. -/
theorem map_event_phase (v : Level) (chunks : List (List Byte)) :
    (Act.setDC v :: chunks.map .xfer).map Act.event = .dc v :: transfers chunks :=
  congrArg (Event.dc v :: ·) List.map_map

theorem map_event_sendCommandWithDataActs (limit : Option Nat) (opcode : Byte) (bytes : List Byte) :
    (sendCommandWithDataActs limit opcode bytes).map Act.event =
      commandEvents opcode ++ .dc .high :: transfers (splitBytes limit bytes) := by
  rw [sendCommandWithDataActs, List.map_append, map_event_sendCommandActs, sendDataActs, map_event_phase]

theorem repeatByteActs_eq_phase (value : Byte) (count : Nat) :
    repeatByteActs value count = .setDC .high :: (List.replicate count [value]).map .xfer := by
  rw [repeatByteActs, List.map_replicate]

/-- An operation made of acts carries out their events (60_exceptions.md R203). -/
theorem carriesOut_of_perform {i : Instr} {s : State} {acts : List Act} {after : Session}
    (h : exec i s = .next (s.perform acts after)) : CarriesOut i s (acts.map Act.event) after := by
  refine ⟨fun hok => h.trans (congrArg _ (s.perform_ok acts after hok)), ?_⟩
  rintro pre bs post hplan ⟨hok, herr⟩
  obtain ⟨preActs, rest, rfl, rfl, hrest⟩ := List.map_eq_append_iff.1 hplan
  obtain ⟨a, postActs, rfl, ha, -⟩ := List.map_eq_cons_iff.1 hrest
  obtain rfl : a = .xfer bs := by cases a <;> simp_all [Act.event]
  exact h.trans (congrArg _ (s.perform_err preActs bs postActs after hok herr))

/-- The acts of a send operation (42_bus_transport.md R143 to R149). -/
def sendActs (limit : Option Nat) : Instr → List Act
  | .sendCommand opcode => sendCommandActs opcode
  | .sendData bytes => sendDataActs limit bytes
  | .sendDataVerbatim bytes => sendDataVerbatimActs bytes
  | .sendCommandWithData opcode bytes => sendCommandWithDataActs limit opcode bytes
  | .repeatByte value count => repeatByteActs value count
  | _ => []

section
variable {i : Instr} {s t : State}

/-- A send operation that is not refused performs its acts. -/
theorem exec_send (hi : isSend i) (hr : ¬ Refuses s i) :
    exec i s = .next (s.perform (sendActs s.cfg.chunkLimit i) s.session) := by
  cases i with
  | sendCommand | sendData | sendCommandWithData | repeatByte => rfl
  | sendDataVerbatim bytes => exact if_neg hr
  | resolve | setPixel | fill | setRotation | getRotation | rawBytes | reset | new | updateFrame | displayFrame
  | updateAndDisplayFrame | clearFrame | setBackgroundColor | backgroundColor | sleep | wake | updateAchromaticFrame
  | updateChromaticFrame => exact hi.elim

/-- All that a send operation can do: it is refused, or it performs its acts. -/
theorem exec_send_cases (hi : isSend i) (h : exec i s = .next t) :
    t = s.reject ∨ t = s.perform (sendActs s.cfg.chunkLimit i) s.session := by
  by_cases hr : Refuses s i
  · exact .inl (Host.Outcome.next.inj (h.symm.trans (exec_of_refuses hr)))
  · exact .inr (Host.Outcome.next.inj (h.symm.trans (exec_send hi hr)))

end

/-! ### The bytes of the send operations -/

/-- A phase puts its chunks under its own level, whatever the level before. -/
theorem bytesUnder_phase (v w : Level) (l : Line) (chunks : List (List Byte)) (evs : List Event) :
    bytesUnder v l (.dc w :: (transfers chunks ++ evs)) =
      (if w = v then chunks.flatten else []) ++ bytesUnder v (.driven w) evs := by
  rw [bytesUnder]
  induction chunks with
  | nil => simp [transfers]
  | cons bs chunks ih =>
    have hcons : bytesUnder v (.driven w) (transfers (bs :: chunks) ++ evs) =
        (if Line.driven w = .driven v then bs else []) ++ bytesUnder v (.driven w) (transfers chunks ++ evs) := rfl
    rw [hcons, ih]
    by_cases hw : w = v <;> simp [hw]

theorem bytesUnder_last_phase (v w : Level) (l : Line) (chunks : List (List Byte)) :
    bytesUnder v l (.dc w :: transfers chunks) = if w = v then chunks.flatten else [] := by
  simpa [bytesUnder] using bytesUnder_phase v w l chunks []

theorem goodBytes_append (a b : List Event) : goodBytes (a ++ b) = goodBytes a ++ goodBytes b := List.flatMap_append

theorem goodBytes_transfers (chunks : List (List Byte)) : goodBytes (transfers chunks) = chunks.flatten := by
  rw [goodBytes, transfers, List.flatMap_map]
  exact List.flatMap_id'

/-- Acts whose transfers are all answered `ok` leave no failed transfer. -/
theorem noFailure_map_event (acts : List Act) : noFailure (acts.map Act.event) := by
  intro e he bs
  obtain ⟨a, -, rfl⟩ := List.mem_map.1 he
  cases a <;> simp [Act.event]

/-- The transfers of `evs`, if all are good, put `command` on the bus under `DC` low, then `data` under `DC` high
(42_bus_transport.md R151). -/
def Sends (evs : List Event) (command data : List Byte) : Prop :=
  bytesUnder .low .undriven evs = command ∧ bytesUnder .high .undriven evs = data ∧ goodBytes evs = command ++ data

theorem sends_command (opcode : Byte) : Sends (commandEvents opcode) [opcode] [] := ⟨rfl, rfl, rfl⟩

theorem sends_data (chunks : List (List Byte)) : Sends (.dc .high :: transfers chunks) [] chunks.flatten :=
  ⟨bytesUnder_last_phase .low .high _ chunks, bytesUnder_last_phase .high .high _ chunks, goodBytes_transfers chunks⟩

theorem sends_command_data (opcode : Byte) (chunks : List (List Byte)) :
    Sends (commandEvents opcode ++ .dc .high :: transfers chunks) [opcode] chunks.flatten := by
  have hphase (v : Level) := bytesUnder_phase v .low .undriven [[opcode]] (.dc .high :: transfers chunks)
  refine ⟨(hphase .low).trans ?_, (hphase .high).trans ?_, ?_⟩
  · simp [bytesUnder_last_phase]
  · simp [bytesUnder_last_phase]
  · exact (goodBytes_append _ _).trans (congrArg ([opcode] ++ ·) (goodBytes_transfers chunks))

/-- The acts of a send operation mean its opcode and its payload: the chunks of the payload are the payload
(42_bus_transport.md R151). -/
theorem sends_sendActs {limit : Option Nat} (hl : ∀ l, limit = some l → 1 ≤ l) {i : Instr} (hi : isSend i) :
    Sends ((sendActs limit i).map Act.event) (commandBytes i) (dataBytes i) := by
  cases i with
  | sendCommand opcode => exact sends_command opcode
  | sendData bytes =>
    have h := sends_data (splitBytes limit bytes)
    rwa [← map_event_phase, flatten_splitBytes hl] at h
  | sendDataVerbatim bytes =>
    have h := sends_data [bytes]
    rwa [List.flatten_singleton] at h
  | sendCommandWithData opcode bytes =>
    have h := sends_command_data opcode (splitBytes limit bytes)
    rwa [← map_event_sendCommandWithDataActs, flatten_splitBytes hl] at h
  | repeatByte value count =>
    have h := sends_data (List.replicate count [value])
    rwa [← map_event_phase, ← repeatByteActs_eq_phase, List.flatten_replicate_singleton] at h
  | resolve | setPixel | fill | setRotation | getRotation | rawBytes | reset | new | updateFrame | displayFrame
  | updateAndDisplayFrame | clearFrame | setBackgroundColor | backgroundColor | sleep | wake | updateAchromaticFrame
  | updateChromaticFrame => exact hi.elim

/-! ### The select line after a phase -/

/-- Transfers leave the select line, also where one fails. -/
theorem runActs_xfer_dc (chunks : List (List Byte)) (s : State) : (runActs (chunks.map .xfer) s).1.dc = s.dc := by
  induction chunks generalizing s with
  | nil => rfl
  | cons bs chunks ih =>
    rw [List.map_cons, runActs]
    split
    · exact ih _
    · rfl

/-- A phase leaves the select line at its level, also where it fails (42_bus_transport.md R152). -/
theorem perform_phase_dc (s : State) (v : Level) (chunks : List (List Byte)) (after : Session) :
    (s.perform (.setDC v :: chunks.map .xfer) after).dc = .driven v := by
  simp [State.perform, runActs, runActs_xfer_dc]

/-- The data phase begins where the command transfer is answered `ok`; else `DC` stays low (42_bus_transport.md R148,
R152). -/
theorem perform_sendCommandWithData_dc (s : State) (limit : Option Nat) (opcode : Byte) (bytes : List Byte)
    (after : Session) : (s.perform (sendCommandWithDataActs limit opcode bytes) after).dc =
      .driven (if s.answerAt 0 = .ok then .high else .low) := by
  have h0 : (s.setDC .low).answerAt 0 = s.answerAt 0 := rfl
  cases hr : s.answerAt 0 with
  | ok => simp [State.perform, sendCommandWithDataActs, sendCommandActs, sendDataActs, runActs, runActs_xfer_dc, h0, hr]
  | err => simp [State.perform, sendCommandWithDataActs, sendCommandActs, runActs, h0, hr]

/-! ### The operations that touch nothing but the bus -/

/-- The events of an operation made of acts are those of the acts, and perhaps a failed transfer. -/
theorem perform_events (s : State) (acts : List Act) (after : Session) :
    ∃ evs, (s.perform acts after).trace = s.trace ++ evs ∧
      ∀ e ∈ evs, (∃ a ∈ acts, e = a.event) ∨ ∃ bs, e = .xfer bs .err := by
  rcases s.perform_cases acts after with ⟨-, hok⟩ | ⟨pre, bs, post, rfl, -, -, herr⟩
  · refine ⟨acts.map Act.event, by rw [hok]; rfl, fun e he => .inl ?_⟩
    obtain ⟨a, ha, rfl⟩ := List.mem_map.1 he
    exact ⟨a, ha, rfl⟩
  · refine ⟨pre.map Act.event ++ [.xfer bs .err], by rw [herr]; rfl, fun e he => ?_⟩
    rcases List.mem_append.1 he with he | he
    · obtain ⟨a, ha, rfl⟩ := List.mem_map.1 he
      exact .inl ⟨a, List.mem_append_left _ ha, rfl⟩
    · exact .inr ⟨bs, List.mem_singleton.1 he⟩

/-- What was done between `s` and `t` made no delay and drove no reset line (42_bus_transport.md R150). -/
def OnBus (s t : State) : Prop :=
  ∃ evs, t.trace = s.trace ++ evs ∧ ∀ e ∈ evs, (∀ n, e ≠ .delay n) ∧ ∀ v, e ≠ .rst v

section
variable {i : Instr} {s t : State}

theorem OnBus.of_trace_eq (h : t.trace = s.trace) : OnBus s t := ⟨[], by simpa using h, by simp⟩

theorem BusPhases.onBus {acts : List Act} (h : BusPhases acts) (s : State) (after : Session) :
    OnBus s (s.perform acts after) := by
  obtain ⟨evs, htrace, hevs⟩ := perform_events s acts after
  refine ⟨evs, htrace, fun e he => ?_⟩
  rcases hevs e he with ⟨a, ha, rfl⟩ | ⟨bs, rfl⟩
  · rcases h.mem ha with ⟨v, rfl⟩ | ⟨bs, rfl⟩ <;> simp [Act.event]
  · simp

/-- An operation that runs under a condition and is refused otherwise (44_session.md R181). -/
theorem OnBus.guarded {p : Prop} [Decidable p] {acts : List Act} {after : Session} (hacts : BusPhases acts)
    (h : (if p then .next (s.perform acts after) else .next s.reject : Host.Outcome State Fault Refusal) = .next t) :
    OnBus s t := by
  split at h <;> obtain rfl := Host.Outcome.next.inj h
  · exact hacts.onBus s after
  · exact .of_trace_eq rfl

theorem busPhases_sendActs (limit : Option Nat) (i : Instr) : BusPhases (sendActs limit i) := by
  unfold sendActs
  split
  · exact busPhases_sendCommandActs _
  · exact busPhases_sendDataActs _ _
  · exact busPhases_sendDataVerbatimActs _
  · exact busPhases_sendCommandWithDataActs _ _ _
  · exact busPhases_repeatByteActs _ _
  · exact .nil

theorem exec_send_onBus (hi : isSend i) (h : exec i s = .next t) : OnBus s t := by
  rcases exec_send_cases hi h with rfl | rfl
  · exact .of_trace_eq rfl
  · exact (busPhases_sendActs _ i).onBus s _

theorem State.planeWrite_onBus (s : State) (op : PlaneOps → Byte) (buffer : List Byte) :
    OnBus s (s.planeWrite op buffer) := by
  unfold State.planeWrite
  split
  · exact .of_trace_eq rfl
  · split
    · exact (busPhases_sendCommandWithDataActs _ _ _).onBus s _
    · exact .of_trace_eq rfl

/-- A session operation that does not begin with the pulse is on the bus alone (42_bus_transport.md R150). -/
theorem exec_sessionSend_onBus (hi : isSessionSend i) (hnew : i ≠ .new) (hwake : i ≠ .wake) (h : exec i s = .next t) :
    OnBus s t := by
  cases i with
  | new => exact absurd rfl hnew
  | wake => exact absurd rfl hwake
  | updateFrame buffer => exact .guarded (busPhases_sendCommandWithDataActs _ _ buffer) h
  | displayFrame => exact .guarded (busPhases_runSeqActs _ _) h
  | updateAndDisplayFrame buffer =>
    exact .guarded ((busPhases_sendCommandWithDataActs _ _ buffer).append (busPhases_runSeqActs _ _)) h
  | clearFrame => exact .guarded (busPhases_clearFrameActs _ _) h
  | sleep => exact .guarded (busPhases_runSeqActs _ _) h
  | updateAchromaticFrame buffer => exact Host.Outcome.next.inj h ▸ s.planeWrite_onBus _ buffer
  | updateChromaticFrame buffer => exact Host.Outcome.next.inj h ▸ s.planeWrite_onBus _ buffer
  | resolve | setPixel | fill | setRotation | getRotation | rawBytes | sendCommand | sendData | sendDataVerbatim
  | sendCommandWithData | repeatByte | reset | setBackgroundColor | backgroundColor => exact hi.elim

/-- Every operation but RESET, NEW and WAKE is on the bus alone: the others either send or leave the trace as it was
(42_bus_transport.md R150, 10_state.md R40). -/
theorem exec_onBus (hreset : ∀ d : Nat, i ≠ .reset d) (hnew : i ≠ .new) (hwake : i ≠ .wake)
    (h : exec i s = .next t) : OnBus s t := by
  by_cases htrace : t.trace = s.trace
  · exact .of_trace_eq htrace
  · rcases trace_mem_writtenBy ((exec_onlyWrites h).mem htrace) with hi | hi | ⟨d, hi⟩
    · exact exec_send_onBus hi h
    · exact exec_sessionSend_onBus hi hnew hwake h
    · exact absurd hi (hreset d)

/-- Every operation but RESET, NEW and WAKE leaves the reset line (10_state.md R30). -/
theorem exec_rst (hreset : ∀ d : Nat, i ≠ .reset d) (hnew : i ≠ .new) (hwake : i ≠ .wake)
    (h : exec i s = .next t) : t.rst = s.rst := by
  by_contra hrst
  rcases rst_mem_writtenBy ((exec_onlyWrites h).mem (e := .rst) hrst) with ⟨d, hi⟩ | hi | hi
  · exact hreset d hi
  · exact hnew hi
  · exact hwake hi

end

end Sys2Proof.Machine

namespace Sys2Proof.Proofs

open Sys2Proof.Machine Sys2Proof.Claims

/-- Settles O29: the length of a chunk is read off where it begins. -/
theorem splitKeepsEveryByte : Obligations.SplitKeepsEveryByte := by
  refine fun bytes => ⟨fun limit hl => ⟨flatten_chunksOf hl le_rfl, length_chunksOf hl le_rfl, fun k c hc => ?_⟩, rfl⟩
  have hk := lt_ceilDiv_iff (a := bytes.length) (k := k) hl
  have hnext := lt_ceilDiv_iff (a := bytes.length) (k := k + 1) hl
  rw [splitBytes, chunksOf_getElem? hl le_rfl] at hc
  split at hc
  · rename_i hbegin
    obtain rfl := Option.some.inj hc
    rw [List.length_take, List.length_drop]
    rw [Nat.mul_succ] at hnext
    split
    · rename_i hinner
      have := hnext.1 hinner
      omega
    · have hlast : ceilDiv bytes.length limit - 1 = k := by
        have := hk.2 hbegin
        omega
      rw [hlast]
      omega
  · simp at hc

/-- Settles O30: the events of the command phase. -/
theorem sendCommandSendsOneByte : Obligations.SendCommandSendsOneByte := fun opcode _ =>
  ⟨rfl, carriesOut_of_perform (acts := sendCommandActs opcode) rfl⟩

/-- Settles O31: the events of the data phase, and no chunk in an empty payload. -/
theorem sendDataSendsTheChunks : Obligations.SendDataSendsTheChunks := by
  intro bytes s
  have hempty : ∀ limit : Option Nat, splitBytes limit [] = [] := fun limit => by cases limit <;> rfl
  refine ⟨rfl, ?_, hempty, ?_⟩
  · have h := carriesOut_of_perform (i := .sendData bytes) (s := s) rfl
    rwa [sendDataActs, map_event_phase] at h
  · simp only [exec, execSendData, sendDataActs, hempty]
    rfl

/-- Settles O32: the limit alone decides between the one transfer and the refusal. -/
theorem verbatimMakesOneTransfer : Obligations.VerbatimMakesOneTransfer := by
  intro bytes s
  refine ⟨rfl, fun hfits => ?_, fun limit hlimit hlt => ?_⟩
  · refine carriesOut_of_perform (acts := sendDataVerbatimActs bytes) (if_neg fun hexceeds => ?_)
    obtain ⟨limit, hlimit, hlt⟩ := exceedsLimit_iff.1 hexceeds
    exact Nat.not_le_of_lt hlt (hfits limit hlimit)
  · exact exec_of_refuses (i := .sendDataVerbatim bytes) (exceedsLimit_iff.2 ⟨limit, hlimit, hlt⟩)

/-- Settles O33: the events of the two phases. -/
theorem commandThenDataPhase : Obligations.CommandThenDataPhase := by
  intro opcode bytes s
  have h := carriesOut_of_perform (i := .sendCommandWithData opcode bytes) (s := s) rfl
  rw [map_event_sendCommandWithDataActs] at h
  exact ⟨rfl, h⟩

/-- Settles O34: one event for each copy. -/
theorem repeatByteSendsCopies : Obligations.RepeatByteSendsCopies := by
  intro value count s
  have h := carriesOut_of_perform (i := .repeatByte value count) (s := s) rfl
  rw [repeatByteActs, List.map_cons, List.map_replicate] at h
  exact ⟨rfl, h⟩

/-- Settles O35: a send that is not refused performs its acts, whose transfers mean its bytes; a failed transfer leaves
the acts before it. -/
theorem bytesSentAreThePayload : Obligations.BytesSentAreThePayload := by
  intro i s t hc hi h
  rcases exec_send_cases hi h with rfl | rfl
  · exact ⟨fun hstatus => by simp [statusIs_answer] at hstatus, fun hstatus => by simp [statusIs_answer] at hstatus⟩
  obtain ⟨hlow, hhigh, hgood⟩ := sends_sendActs (fun _ => Config.one_le_chunkLimit hc) hi
  rcases s.perform_cases (sendActs s.cfg.chunkLimit i) s.session with ⟨-, hok⟩ | ⟨pre, bs, post, hacts, -, -, herr⟩
  · rw [hok]
    refine ⟨fun _ => ⟨_, rfl, noFailure_map_event _, hlow, hhigh⟩, fun hstatus => ?_⟩
    simp [statusIs_answer] at hstatus
  · rw [herr]
    refine ⟨fun hstatus => by simp [statusIs_answer] at hstatus, fun _ => ⟨_, bs, rfl, noFailure_map_event pre, ?_⟩⟩
    rw [← hgood, hacts, List.map_append, goodBytes_append]
    exact List.prefix_append _ _

/-- Settles O36: the level of the phase the operation ends in. -/
theorem selectLineAfterASend : Obligations.SelectLineAfterASend := by
  intro s t
  refine ⟨fun opcode h => ?_, fun bytes h => ?_, fun bytes h hstatus => ?_, fun value count h => ?_,
    fun opcode bytes h => ?_⟩
  · obtain rfl := Host.Outcome.next.inj h
    exact perform_phase_dc s .low [[opcode]] _
  · obtain rfl := Host.Outcome.next.inj h
    exact perform_phase_dc s .high _ _
  · rcases exec_send_cases (i := .sendDataVerbatim bytes) trivial h with rfl | rfl
    · exact absurd (statusIs_answer.2 rfl) hstatus
    · exact perform_phase_dc s .high [bytes] _
  · obtain rfl := Host.Outcome.next.inj h
    rw [repeatByteActs_eq_phase]
    exact perform_phase_dc s .high _ _
  · obtain rfl := Host.Outcome.next.inj h
    exact perform_sendCommandWithData_dc s _ opcode bytes _

/-- Settles O37: an operation leaves the trace as it was, or its events select before they transfer. -/
theorem selectLineIsDrivenBeforeEveryTransfer : Obligations.SelectLineIsDrivenBeforeEveryTransfer := by
  intro i s t h
  rcases exec_planned h with ⟨u, status, result, rfl, -, hu, -, -⟩ | hp
  · exact ⟨[], by rw [hu]; simp, rfl⟩
  · obtain ⟨evs, after, status, rfl, hselect, -⟩ := hp.events
    exact ⟨evs, rfl, hselect⟩

/-- Settles O41: what is not RESET, NEW or WAKE writes no reset line and is on the bus alone. -/
theorem delaysComeFromResetAlone : Obligations.DelaysComeFromResetAlone := fun _ _ _ h hreset hnew hwake =>
  ⟨exec_rst hreset hnew hwake h, exec_onBus hreset hnew hwake h⟩

end Sys2Proof.Proofs

/-! ## The reset timer: the pulse, its transitions of the reset line and its least duration (43_reset_timer.md)

`exec_reset` says once what RESET leaves: it makes no transfer, so nothing can end it early. `perform_reset_trace` says that
whatever follows the pulse, and however that ends, the trace begins with the whole pulse; the duration of NEW is read off
it. -/

namespace Sys2Proof.Machine

open Sys2Proof.Claims

/-! ### The pulse -/

theorem map_event_resetActs (durationLowMs : Nat) :
    (resetActs durationLowMs).map Act.event = resetEvents durationLowMs := rfl

/-- RESET leaves its six events and returns `OK`, whatever the platform answers (43_reset_timer.md R171, R172). -/
theorem exec_reset (durationLowMs : Nat) (s : State) :
    exec (.reset durationLowMs) s = .next ((s.after (resetEvents durationLowMs)).answer .ok .nothing) := by
  have hno_transfer : transferActs (resetActs durationLowMs) = 0 := rfl
  exact congrArg _ (s.perform_ok (resetActs durationLowMs) s.session (by simp [hno_transfer]))

/-- An operation that begins with the pulse leaves the whole pulse first, also where a transfer after it fails
(44_session.md R182, 60_exceptions.md R203). -/
theorem perform_reset_trace (s : State) (durationLowMs : Nat) (sends : List Act) (after : Session) :
    ∃ bus, (s.perform (resetActs durationLowMs ++ sends) after).trace =
      s.trace ++ (resetEvents durationLowMs ++ bus) := by
  rcases s.perform_cases (resetActs durationLowMs ++ sends) after with ⟨-, hok⟩ | ⟨pre, bs, post, hacts, -, -, herr⟩
  · refine ⟨sends.map Act.event, ?_⟩
    rw [hok, List.map_append, map_event_resetActs]
    rfl
  · obtain ⟨mid, rfl, -⟩ := eq_pulseActs_append (pulse := some durationLowMs) hacts
    refine ⟨mid.map Act.event ++ [.xfer bs .err], ?_⟩
    rw [herr, pulseActs, List.map_append, map_event_resetActs, List.append_assoc]
    rfl

/-! ### The transitions and the duration -/

/-- A line already high only goes low and comes back (43_reset_timer.md R174). -/
theorem rstTransitions_resetEvents_of_high (durationLowMs : Nat) :
    rstTransitions (.driven .high) (resetEvents durationLowMs) = 2 := rfl

/-- A low line is first raised (43_reset_timer.md R174). -/
theorem rstTransitions_resetEvents_of_low (durationLowMs : Nat) :
    rstTransitions (.driven .low) (resetEvents durationLowMs) = 3 := rfl

theorem elapsedMs_append (a b : List Event) : elapsedMs (a ++ b) = elapsedMs a + elapsedMs b := by
  induction a with
  | nil => simp [elapsedMs]
  | cons e a ih => cases e <;> simp [elapsedMs, ih, Nat.add_assoc]

/-- The three delays of the pulse (70_reset_and_hazards.md R233). -/
theorem elapsedMs_resetEvents (durationLowMs : Nat) : elapsedMs (resetEvents durationLowMs) = 260 + durationLowMs := by
  simp only [resetEvents, elapsedMs]
  omega

end Sys2Proof.Machine

namespace Sys2Proof.Proofs

open Sys2Proof.Machine Sys2Proof.Claims

/-- Settles O40: RESET leaves the pulse; NEW leaves it first, and no event after it takes time back. -/
theorem resetTransitionsAndDuration : Obligations.ResetTransitionsAndDuration := by
  refine ⟨fun d s t h => ?_, fun s t hs h => ?_⟩
  · obtain rfl := Host.Outcome.next.inj ((exec_reset d s).symm.trans h)
    refine ⟨resetEvents d, rfl, elapsedMs_resetEvents d, fun hhigh => ?_, fun hlow => ?_⟩
    · rw [hhigh, rstTransitions_resetEvents_of_high]
    · rw [hlow, rstTransitions_resetEvents_of_low]
  · have hnew : exec .new s = .next (s.perform (initialiseActs s.cfg) .ready) := if_pos hs
    obtain rfl := Host.Outcome.next.inj (hnew.symm.trans h)
    obtain ⟨bus, htrace⟩ := perform_reset_trace s s.cfg.resetLowMs (runSeqActs s.cfg.chunkLimit s.cfg.initSeq) .ready
    refine ⟨resetEvents s.cfg.resetLowMs ++ bus, htrace, ?_⟩
    rw [elapsedMs_append, elapsedMs_resetEvents]
    exact Nat.le_add_right _ _

/-- Settles O39: the state after the pulse, its lines and counters evaluated. -/
theorem resetPulse : Obligations.ResetPulse := fun d s => ⟨rfl, exec_reset d s⟩

end Sys2Proof.Proofs

/-! ## The session: what its operations send, and how `SESSION` moves (44_session.md)

The `exec_` equations say once which acts an operation performs where it is accepted, and the `map_event_` equations
which events these leave; `carriesOut_of_perform` puts the two together. `perform_append_of_ok` and
`perform_append_of_busError` say that performing two lists of acts in one operation is performing them in two, and
`session_of_guarded` how the session can move. -/

namespace Sys2Proof.Machine

open Sys2Proof.Claims

/-! ### The events of the session operations -/

/-- `RunSeq` leaves the events of its pairs (44_session.md R180). -/
theorem map_event_runSeqActs (c : Config) (seq : List ProfileCommand) :
    (runSeqActs c.chunkLimit seq).map Act.event = sequenceEvents c seq := by
  rw [runSeqActs, sequenceEvents, List.map_flatMap]
  refine List.flatMap_congr fun p _ => ?_
  rw [profileCommandActs]
  split
  · exact map_event_sendCommandActs p.opcode
  · exact map_event_sendCommandWithDataActs _ p.opcode p.payload

/-- NEW and WAKE leave the pulse, then the initialisation list (44_session.md R182, R183). -/
theorem map_event_initialiseActs (c : Config) :
    (initialiseActs c).map Act.event = resetEvents c.resetLowMs ++ sequenceEvents c c.initSeq := by
  rw [initialiseActs, List.map_append, map_event_resetActs, map_event_runSeqActs]

/-- A frame write leaves its opcode, then the buffer in chunks (44_session.md R184). -/
theorem map_event_writeFrameActs (c : Config) (op : Byte) (buffer : List Byte) :
    (writeFrameActs c op buffer).map Act.event = commandEvents op ++ dataEvents c buffer :=
  map_event_sendCommandWithDataActs _ op buffer

/-- CLEAR_FRAME leaves the write opcode, then one transfer for each fill byte (44_session.md R187). -/
theorem map_event_clearFrameActs (c : Config) (color : ColorValue) :
    (clearFrameActs c color).map Act.event = commandEvents c.profileOps.writeOp ++
      .dc .high :: transfers ((List.range c.len).map fun i => [c.fillByte color i]) := by
  rw [clearFrameActs, List.map_append, map_event_sendCommandActs, transfers, List.map_cons, List.map_map, List.map_map]
  rfl

/-! ### The acts of the session operations -/

section
variable {s : State} {buffer : List Byte}

theorem exec_new (hs : s.session = .uninitialized) : exec .new s = .next (s.perform (initialiseActs s.cfg) .ready) :=
  if_pos hs

theorem exec_wake (hs : s.session = .sleeping) : exec .wake s = .next (s.perform (initialiseActs s.cfg) .ready) :=
  if_pos hs

theorem exec_updateFrame (h : acceptsFrame s buffer) : exec (.updateFrame buffer) s =
    .next (s.perform (writeFrameActs s.cfg s.cfg.profileOps.writeOp buffer) .ready) := if_pos h

theorem exec_displayFrame (hs : s.session = .ready) : exec .displayFrame s =
    .next (s.perform (runSeqActs s.cfg.chunkLimit s.cfg.profileOps.refreshSeq) .ready) := if_pos hs

theorem exec_updateAndDisplayFrame (h : acceptsFrame s buffer) : exec (.updateAndDisplayFrame buffer) s =
    .next (s.perform (writeFrameActs s.cfg s.cfg.profileOps.writeOp buffer ++
      runSeqActs s.cfg.chunkLimit s.cfg.profileOps.refreshSeq) .ready) := if_pos h

theorem exec_clearFrame (hs : s.session = .ready) (hbackground : s.cfg.layout.holds s.background = true) :
    exec .clearFrame s = .next (s.perform (clearFrameActs s.cfg s.background) .ready) := if_pos ⟨hs, hbackground⟩

theorem exec_sleep (hs : s.session = .ready) : exec .sleep s =
    .next (s.perform (runSeqActs s.cfg.chunkLimit s.cfg.profileOps.sleepSeq) .sleeping) := if_pos hs

/-- A plane write on a two-plane profile (44_session.md R191, R192). -/
theorem planeWrite_of_accepts {ops : PlaneOps} (op : PlaneOps → Byte) (hops : s.cfg.profileOps.planeOps = some ops)
    (h : acceptsFrame s buffer) :
    s.planeWrite op buffer = s.perform (writeFrameActs s.cfg (op ops) buffer) .ready := by
  simp only [State.planeWrite, hops, if_pos h]

theorem exec_setBackgroundColor {tag : ColorTag} {color : ColorValue} (h : acceptsBackground s)
    (hcolor : s.cfg.layout.colorOfTag tag = some color) :
    exec (.setBackgroundColor tag) s = .next (({ s with background := color }).answer .ok .nothing) := by
  simp only [exec, execSetBackgroundColor, if_pos h, hcolor]
  rfl

theorem exec_backgroundColor (h : acceptsBackground s) :
    exec .backgroundColor s = .next (s.answer .ok (.color s.background.tag)) := if_pos h

/-- An operation that writes the caller's buffer to the opcode `op` (44_session.md R184, R191, R192). -/
theorem carriesOut_writeFrame {i : Instr} {op : Byte}
    (h : exec i s = .next (s.perform (writeFrameActs s.cfg op buffer) .ready)) :
    CarriesOut i s (commandEvents op ++ dataEvents s.cfg buffer) .ready :=
  map_event_writeFrameActs s.cfg op buffer ▸ carriesOut_of_perform h

end

/-! ### One list of acts after another -/

section
variable {s : State} {a b : List Act}

theorem runActs_append_of_ok (h : (runActs a s).2 = .ok) : runActs (a ++ b) s = runActs b (runActs a s).1 := by
  induction a generalizing s with
  | nil => rfl
  | cons act a ih =>
    cases act with
    | setDC v | setRST v | delay ms => exact ih h
    | xfer bs =>
      simp only [List.cons_append, runActs] at h ⊢
      split at h
      · exact ih h
      · cases h

theorem runActs_append_of_err (h : (runActs a s).2 = .err) : runActs (a ++ b) s = runActs a s := by
  induction a generalizing s with
  | nil => cases h
  | cons act a ih =>
    cases act with
    | setDC v | setRST v | delay ms => exact ih h
    | xfer bs =>
      simp only [List.cons_append, runActs] at h ⊢
      split at h
      · exact ih h
      · rfl

/-- No act reads the last outcome or writes it (10_state.md R34). -/
theorem runActs_answer (acts : List Act) (s : State) (status : Status) (result : Result) :
    runActs acts (s.answer status result) =
      ((runActs acts s).1.answer status result, (runActs acts s).2) := by
  induction acts generalizing s with
  | nil => rfl
  | cons act acts ih =>
    cases act with
    | setDC v => exact ih (s.setDC v)
    | setRST v => exact ih (s.setRST v)
    | delay ms => exact ih (s.delay ms)
    | xfer bs =>
      have hanswer : (s.answer status result).answerAt 0 = s.answerAt 0 := rfl
      simp only [runActs, State.xfer_snd, hanswer]
      split
      · exact ih (s.xfer bs).1
      · rfl

/-- An operation made of acts does not depend on the outcome before it (10_state.md R34). -/
theorem perform_answer (s : State) (acts : List Act) (after : Session) (status : Status) (result : Result) :
    (s.answer status result).perform acts after = s.perform acts after := by
  rw [State.perform, runActs_answer, State.perform]
  cases (runActs acts s).2 <;> rfl

/-- The status of an operation made of acts is the answer of its acts. -/
theorem statusIs_perform {acts : List Act} {after : Session} {status : Status} :
    statusIs (s.perform acts after) status ↔ (if (runActs acts s).2 = .ok then .ok else .busError) = status := by
  simp [statusIs, State.perform]

/-- Where the first acts succeed in an operation that keeps the session, the rest are performed as by an operation of
their own. -/
theorem perform_append_of_ok {after : Session} (h : statusIs (s.perform a s.session) .ok) :
    s.perform (a ++ b) after = (s.perform a s.session).perform b after := by
  have hok : (runActs a s).2 = .ok := by
    by_contra hne
    simp [statusIs_perform, hne] at h
  have hfirst : s.perform a s.session = (runActs a s).1.answer .ok .nothing := by
    obtain ⟨evs, hevs⟩ := runActs_after a s
    rw [State.perform, hok, hevs]
    rfl
  rw [hfirst, perform_answer, State.perform, runActs_append_of_ok hok, State.perform]

/-- Where the first acts fail, the rest are not performed (60_exceptions.md R203). -/
theorem perform_append_of_busError {mid after : Session} (h : statusIs (s.perform a mid) .busError) :
    s.perform (a ++ b) after = s.perform a mid := by
  have herr : (runActs a s).2 = .err := by
    cases hr : (runActs a s).2 with
    | ok => simp [statusIs_perform, hr] at h
    | err => rfl
  rw [State.perform, runActs_append_of_err herr, State.perform, herr]
  rfl

end

/-! ### The moves of the session -/

/-- An operation made of acts moves the session only where it returns `OK`, and then to its own (44_session.md R181). -/
theorem session_of_perform {s : State} {acts : List Act} {after : Session}
    (h : (s.perform acts after).session ≠ s.session) :
    statusIs (s.perform acts after) .ok ∧ (s.perform acts after).session = after := by
  rcases s.perform_cases acts after with ⟨-, hok⟩ | ⟨pre, bs, post, -, -, -, herr⟩
  · rw [hok]
    exact ⟨statusIs_answer.2 rfl, rfl⟩
  · rw [herr] at h
    exact absurd rfl h

/-- An operation that runs under a condition moves the session only under it (44_session.md R181). -/
theorem session_of_guarded {p : Prop} [Decidable p] {s t : State} {acts : List Act} {after : Session}
    (h : (if p then .next (s.perform acts after) else .next s.reject : Host.Outcome State Fault Refusal) = .next t)
    (hmoved : t.session ≠ s.session) : statusIs t .ok ∧ p ∧ t.session = after := by
  split at h <;> obtain rfl := Host.Outcome.next.inj h
  · obtain ⟨hstatus, hafter⟩ := session_of_perform hmoved
    exact ⟨hstatus, ‹_›, hafter⟩
  · exact absurd rfl hmoved

end Sys2Proof.Machine

namespace Sys2Proof.Proofs

open Sys2Proof.Machine Sys2Proof.Claims

/-- Settles O44: the pulse and the initialisation list are the events of its acts. -/
theorem newResetsInitialisesAndIsReady : Obligations.NewResetsInitialisesAndIsReady :=
  ⟨rfl, fun s hs => map_event_initialiseActs s.cfg ▸ carriesOut_of_perform (exec_new hs)⟩

/-- Settles O45: the acts are those of NEW. -/
theorem wakeRepeatsResetAndInitialisation : Obligations.WakeRepeatsResetAndInitialisation :=
  ⟨rfl, fun s hs => map_event_initialiseActs s.cfg ▸ carriesOut_of_perform (exec_wake hs)⟩

/-- Settles O46: the length alone decides between the frame write and the refusal. -/
theorem updateFrameSendsTheBuffer : Obligations.UpdateFrameSendsTheBuffer := fun buffer _ hs =>
  ⟨rfl, fun hlength => carriesOut_writeFrame (exec_updateFrame ⟨hs, hlength⟩),
    fun hlength => exec_of_refuses (i := .updateFrame buffer) (not_acceptsFrame_iff.2 (.inr hlength))⟩

/-- Settles O47: the refresh list is the events of its acts. -/
theorem displayFrameSendsTheRefreshList : Obligations.DisplayFrameSendsTheRefreshList :=
  ⟨rfl, fun s hs => map_event_runSeqActs s.cfg _ ▸ carriesOut_of_perform (exec_displayFrame hs)⟩

/-- Settles O48: the events of the frame write, then those of the refresh list. -/
theorem updateAndDisplaySendsBoth : Obligations.UpdateAndDisplaySendsBoth := by
  intro buffer s hs hlength
  have h := carriesOut_of_perform (exec_updateAndDisplayFrame ⟨hs, hlength⟩)
  rw [List.map_append, map_event_writeFrameActs, map_event_runSeqActs] at h
  exact ⟨rfl, h⟩

/-- Settles O49: the fused operation performs the acts of the pair, one list after the other. -/
theorem fusedFrameEqualsThePair : Obligations.FusedFrameEqualsThePair := by
  intro buffer s u hs hlength hu
  have hfused := exec_updateAndDisplayFrame ⟨hs, hlength⟩
  have hwrites := exec_onlyWrites hu
  have hsession : u.session = .ready := (hwrites .session (by simp [writtenBy])).trans hs
  have hcfg : u.cfg = s.cfg := hwrites .cfg cfg_notMem_writtenBy
  obtain rfl := Host.Outcome.next.inj ((exec_updateFrame ⟨hs, hlength⟩).symm.trans hu)
  refine ⟨fun hok => ?_, fun herr => hfused.trans (congrArg _ (perform_append_of_busError herr))⟩
  rw [exec_displayFrame hsession, hcfg, hfused]
  rw [← hs] at hok ⊢
  rw [perform_append_of_ok hok]

/-- Settles O50: one transfer for each fill byte. -/
theorem clearFrameSendsTheBackground : Obligations.ClearFrameSendsTheBackground := by
  refine ⟨rfl, fun s hs hbackground => ?_⟩
  have h := carriesOut_of_perform (exec_clearFrame hs hbackground)
  rwa [map_event_clearFrameActs, transfers, List.map_map] at h

/-- Settles O51: the data phase holds the fill byte of every index, which is what the filled buffer reads as. -/
theorem clearFrameSendsWhatAFilledBufferHolds : Obligations.ClearFrameSendsWhatAFilledBufferHolds := by
  intro s t tag u bs v hs hcolor ht hok hu hv hbs
  have hfb : t.fb = s.fb := exec_onlyWrites ht .fb (by simp [writtenBy])
  have hraw : bs = (List.range s.cfg.len).map (s.cfg.fillByte s.background) := by
    obtain rfl := Host.Outcome.next.inj ((exec_fill hcolor).symm.trans hu)
    obtain rfl := Host.Outcome.next.inj hv
    obtain rfl : (done (s.fillWith (s.cfg.fillByte s.background)) .ok .nothing).rawBytes = bs := by simpa using hbs
    exact List.map_congr_left fun i hi => byteAt_fillWith s _ (List.mem_range.1 hi)
  obtain rfl := Host.Outcome.next.inj ((exec_clearFrame hs (Layout.holds_colorOfTag hcolor)).symm.trans ht)
  rcases s.perform_cases (clearFrameActs s.cfg s.background) .ready with ⟨-, hdone⟩ | ⟨pre, bs', post, -, -, -, herr⟩
  · refine ⟨hfb, (clearFrameActs s.cfg s.background).map Act.event, by rw [hdone]; rfl, ?_⟩
    obtain ⟨-, hdata, -⟩ := sends_command_data s.cfg.profileOps.writeOp
      ((List.range s.cfg.len).map fun i => [s.cfg.fillByte s.background i])
    rw [map_event_clearFrameActs, hdata, hraw, ← List.flatMap_def, ← List.map_eq_flatMap]
  · simp [herr, statusIs_answer] at hok

/-- Settles O53: the sleep list is the events of its acts. -/
theorem sleepSendsTheSleepList : Obligations.SleepSendsTheSleepList :=
  ⟨rfl, fun s hs => map_event_runSeqActs s.cfg _ ▸ carriesOut_of_perform (exec_sleep hs)⟩

/-- Settles O54: on a two-plane profile a plane write is a frame write to its opcode; on any other it is refused. -/
theorem planeWritesSendTheBuffer : Obligations.PlaneWritesSendTheBuffer := by
  intro buffer s hs hlength
  have haccepts : acceptsFrame s buffer := ⟨hs, hlength⟩
  refine ⟨rfl, rfl, fun ops hops => ⟨?_, ?_⟩, fun hnone => ⟨?_, ?_⟩⟩
  · exact carriesOut_writeFrame (congrArg _ (planeWrite_of_accepts (·.achromaticOp) hops haccepts))
  · exact carriesOut_writeFrame (congrArg _ (planeWrite_of_accepts (·.chromaticOp) hops haccepts))
  · exact exec_of_refuses (i := .updateAchromaticFrame buffer) (.inl hnone)
  · exact exec_of_refuses (i := .updateChromaticFrame buffer) (.inl hnone)

/-- Settles O55: only three operations write `SESSION`, each under its own state of the table. -/
theorem sessionMovesOnlyByTheTable : Obligations.SessionMovesOnlyByTheTable := by
  intro i s t h hmoved
  rcases session_mem_writtenBy ((exec_onlyWrites h).mem (e := .session) hmoved) with rfl | rfl | rfl <;>
    obtain ⟨hok, hfrom, hto⟩ := session_of_guarded h hmoved
  · exact ⟨hok, .inl ⟨rfl, hfrom, hto⟩⟩
  · exact ⟨hok, .inr (.inl ⟨rfl, hfrom, hto⟩)⟩
  · exact ⟨hok, .inr (.inr ⟨rfl, hfrom, hto⟩)⟩

/-- Settles O52: the tag decides between the write and the refusal, and each color has its tag. -/
theorem backgroundIsSetAndRead : Obligations.BackgroundIsSetAndRead := by
  refine ⟨rfl, fun tag => rfl, fun s hs => ⟨fun tag color hcolor => exec_setBackgroundColor hs hcolor,
    fun tag hcolor => exec_of_refuses (i := .setBackgroundColor tag) (.inr hcolor), ?_⟩⟩
  rw [exec_backgroundColor hs]
  cases s.background with
  | mono m => cases m <;> rfl
  | gray g => cases g <;> rfl

end Sys2Proof.Proofs

/-! ## The errors: what a failed transfer leaves, and the operations that make none (60_exceptions.md)

`exec_busError` and `exec_not_busError` say once what an operation leaves where a transfer fails and where none does; both
are read off `exec_cases`. An operation that never fails has its equation in every state in which it is legal; SET_PIXEL
alone has two, for a point of the area and for any other. -/

namespace Sys2Proof

/-! ### The colors of the legal tags -/

/-- A tag legal at the buffer's depth names a color (30_encoding.md R79). -/
theorem Layout.exists_colorOfTag {l : Layout} {tag : ColorTag} (h : tag.toNat < 2 ^ l.bitDepth) :
    ∃ color, l.colorOfTag tag = some color :=
  Option.ne_none_iff_exists'.1 (mt Layout.colorOfTag_eq_none_iff.1 (Nat.not_le_of_lt h))

end Sys2Proof

namespace Sys2Proof.Machine

open Sys2Proof.Claims

section
variable {s t : State}

/-! ### The failed transfer -/

theorem Answered.not_busError (h : Answered s t) : ¬ statusIs t .busError := by
  obtain ⟨u, status, result, rfl, hstatus, -, -, -⟩ := h
  exact fun hbus => hstatus (statusIs_answer.1 hbus)

theorem Answered.trace_eq (h : Answered s t) : t.trace = s.trace := by
  obtain ⟨u, status, result, rfl, -, hu, -, -⟩ := h
  rw [hu]
  rfl

/-- An operation that returns `BUS_ERROR` has made good transfers and then a failed one, which is its last event; nothing
but the lines, the trace and the platform's answers is touched (60_exceptions.md R203). -/
theorem exec_busError {i : Instr} (h : exec i s = .next t) (hbus : statusIs t .busError) :
    ∃ evs bs, noFailure evs ∧ failsAfter s (transferCount evs) ∧
      t = (s.after (evs ++ [.xfer bs .err])).answer .busError .nothing := by
  rcases exec_cases i s t h with ha | ⟨acts, after, rfl⟩
  · exact absurd hbus ha.not_busError
  · rcases s.perform_cases acts after with ⟨-, hok⟩ | ⟨pre, bs, post, -, hgood, hfailed, herr⟩
    · rw [hok, statusIs_answer] at hbus
      cases hbus
    · exact ⟨pre.map Act.event, bs, noFailure_map_event pre, ⟨hgood, hfailed⟩, herr⟩

/-- An operation that returns anything but `BUS_ERROR` has made good transfers only (60_exceptions.md R201). -/
theorem exec_not_busError {i : Instr} (h : exec i s = .next t) (hbus : ¬ statusIs t .busError) :
    ∃ evs, t.trace = s.trace ++ evs ∧ noFailure evs ∧ allOk s (transferCount evs) := by
  rcases exec_cases i s t h with ha | ⟨acts, after, rfl⟩
  · exact ⟨[], by rw [ha.trace_eq, List.append_nil], noFailure_map_event [], fun k hk => absurd hk k.not_lt_zero⟩
  · rcases s.perform_cases acts after with ⟨hgood, hok⟩ | ⟨pre, bs, post, -, -, -, herr⟩
    · exact ⟨acts.map Act.event, by rw [hok]; rfl, noFailure_map_event acts, hgood⟩
    · exact absurd (statusIs_answer.2 rfl) (herr ▸ hbus)

/-! ### The operations that never fail -/

/-- SET_PIXEL with a legal tag returns `OK`: a point of the area has a byte to write, and any other is dropped
(41_pixelbuffer.md R120, R124). -/
theorem exec_setPixel_ok (x y : Int) {tag : ColorTag} (hs : sound s) (htag : tag.toNat < 2 ^ s.cfg.layout.bitDepth) :
    ∃ t, exec (.setPixel x y tag) s = .next t ∧ statusIs t .ok := by
  obtain ⟨color, hcolor⟩ := Layout.exists_colorOfTag htag
  cases hp : devicePoint s.cfg s.rotation x y with
  | none => exact ⟨s.succeed .nothing, by simp only [exec, execSetPixel, hcolor, hp], statusIs_answer.2 rfl⟩
  | some p =>
    obtain ⟨t, ht, -, hdone⟩ := setPixel_writes hs hcolor hp
    exact ⟨t, ht, hdone ▸ statusIs_answer.2 rfl⟩

end

end Sys2Proof.Machine

namespace Sys2Proof.Proofs

open Sys2Proof.Machine Sys2Proof.Claims

/-- Settles O42: an operation answers without touching a wire, or performs acts, which end at their first failing
transfer. -/
theorem busErrorAbortsAtTheFailedTransfer : Obligations.BusErrorAbortsAtTheFailedTransfer :=
  fun _ _ _ h => ⟨exec_busError h, exec_not_busError h⟩

/-- Settles O43: RESET makes no transfer and the others touch no wire; a legal tag names a color, and in a sound state the
byte of a pixel exists. -/
theorem operationsThatNeverFail : Obligations.OperationsThatNeverFail := by
  intro i s hs hlegal
  have hok {u : State} {result : Result} (h : exec i s = .next (u.answer .ok result)) :
      ∃ t, exec i s = .next t ∧ statusIs t .ok := ⟨_, h, statusIs_answer.2 rfl⟩
  cases i with
  | resolve | setRotation | getRotation | rawBytes => exact hok rfl
  | setPixel x y tag => exact exec_setPixel_ok x y hs hlegal
  | fill tag =>
    obtain ⟨color, hcolor⟩ := Layout.exists_colorOfTag hlegal
    exact hok (exec_fill hcolor)
  | reset durationLowMs => exact hok (exec_reset durationLowMs s)
  | setBackgroundColor tag =>
    obtain ⟨htag, haccepts⟩ := hlegal
    obtain ⟨color, hcolor⟩ := Layout.exists_colorOfTag htag
    exact hok (exec_setBackgroundColor haccepts hcolor)
  | backgroundColor => exact hok (exec_backgroundColor hlegal)
  | sendCommand | sendData | sendDataVerbatim | sendCommandWithData | repeatByte | new | updateFrame | displayFrame
  | updateAndDisplayFrame | clearFrame | sleep | wake | updateAchromaticFrame | updateChromaticFrame =>
    exact hlegal.elim

end Sys2Proof.Proofs

/-! ## Reset and hazards: the constructed block, and the step with nothing to do (70_reset_and_hazards.md)

`construct_eq_some_iff` says once which configurations have a block and which block it is; the elements of R20 and the
invariant are then read off `State.constructed`. -/

namespace Sys2Proof

theorem Config.holds_defaultBackground_of_wellFormed {c : Config} (h : c.wellFormed = true) :
    c.layout.holds c.defaultBackground = true := by
  simp only [Config.wellFormed, Bool.and_eq_true] at h
  obtain ⟨⟨-, hbackground⟩, -⟩ := h
  exact hbackground

theorem Config.wellFormed_atReset : Config.atReset.wellFormed = true := by decide

end Sys2Proof

namespace Sys2Proof.Machine

/-! ### Construction -/

theorem construct_eq_some_iff {c : Config} {s : State} :
    construct c = some s ↔ c.wellFormed = true ∧ s = State.constructed c := by
  rw [construct, Option.ite_none_right_eq_some, Option.some.injEq, eq_comm (a := s)]

theorem construct_eq_none_iff {c : Config} : construct c = none ↔ c.wellFormed = false := by
  simp [construct]

theorem State.length_rawBytes (s : State) : s.rawBytes.length = s.cfg.len := by
  rw [State.rawBytes, List.length_map, List.length_range]

/-- No cell is listed, so an index reads as the background fills it (10_state.md R41). -/
theorem State.constructed_byteAt (c : Config) (i : Nat) :
    (State.constructed c).byteAt i = c.fillByte c.defaultBackground i :=
  Memory.read_unlisted (d := c.resetByte) fun _ hc => absurd hc List.not_mem_nil

/-- The trace is empty, so neither line has been driven and no transfer was made. -/
theorem State.constructed_invariant {c : Config} (h : c.wellFormed = true) : Invariant (State.constructed c) where
  config := h
  framebuffer := State.constructed_framebuffer_wf c
  background := Config.holds_defaultBackground_of_wellFormed h
  idle := rfl
  selectLine := rfl
  resetLine := rfl
  resetReleased := nofun
  sessionReset := fun hsession => absurd rfl hsession
  selected := rfl
  counted := rfl

/-! ### The port with nothing presented -/

/-- With no request presented the port is idle, whether an operation is in flight or not (log 14). -/
theorem acceptance_of_nothing_presented {s : State} (hc : s.cfg.wellFormed = true) (hr : s.requests = []) :
    s.acceptance = .idle := by
  cases hb : s.busy with
  | true => exact acceptance_of_busy hc hb
  | false => simp only [State.acceptance, hc, hb, hr, if_true, Bool.false_eq_true, if_false]

end Sys2Proof.Machine

namespace Sys2Proof.Proofs

open Sys2Proof.Machine Sys2Proof.Claims

/-- Settles O6: the port is idle. -/
theorem nothingPresentedNothingDone : Obligations.NothingPresentedNothingDone :=
  fun _ hc hr => step_of_idle (acceptance_of_nothing_presented hc hr)

/-- Settles O11: no cell of the framebuffer is listed, so every byte reads as the background fills it; the other elements
are fields of the constructed block. -/
theorem constructionState : Obligations.ConstructionState :=
  fun c => ⟨construct_eq_none_iff.2, fun hc => ⟨State.constructed c, construct_eq_some_iff.2 ⟨hc, rfl⟩, rfl,
    fun i _ => State.constructed_byteAt c i, State.length_rawBytes _, rfl, rfl, rfl, rfl, rfl, rfl, rfl⟩⟩

/-- Settles O12: a block exists for a well-formed configuration only, and the one of reset is well formed. -/
theorem invariantAtConstruction : Obligations.InvariantAtConstruction := by
  refine ⟨fun c s h => ?_, construct_eq_some_iff.2 ⟨Config.wellFormed_atReset, rfl⟩,
    State.constructed_invariant Config.wellFormed_atReset⟩
  obtain ⟨hc, rfl⟩ := construct_eq_some_iff.1 h
  exact State.constructed_invariant hc

end Sys2Proof.Proofs

/-! ## The listed words: the decoding vectors of V8 (95_test_vectors.md)

A row that decodes is the encoding of the instruction it lists, so the round trip of the encoder gives it; a row that
does not is turned away for its header, before its operands are read. -/

namespace Sys2Proof

/-- The words an instruction is encoded by decode to it. -/
theorem decodeRequest_of_encode_eq {r : Request} {i : Instr} (hi : i.wellFormed = true) (h : encode i = r) :
    decodeRequest r = .ok i :=
  h ▸ Proofs.decodeOfEncodedInstruction i hi

/-- The header is judged before the operands and the payload. -/
theorem decodeRequest_of_header_error {h : Word} {ws : List Word} {payload : List Byte} {e : DecodeError}
    (hheader : decodeHeader h = .error e) : decodeRequest ⟨h :: ws, payload⟩ = .error e := by
  simp only [decodeRequest, hheader]

/-- The two layouts of two bits a pixel read a tag alike (30_encoding.md R79). -/
theorem Layout.colorOfTag_of_bitDepth_two {l : Layout} (h : l.bitDepth = 2) (tag : ColorTag) :
    l.colorOfTag tag = Layout.colorOfTag.twoBit tag := by
  cases l with
  | l1 => exact absurd h (by decide)
  | x2 | y2 => rfl

/-- The tag 1 is legal at either depth (30_encoding.md R79). -/
theorem Layout.one_lt_two_pow_bitDepth (l : Layout) : 1 < 2 ^ l.bitDepth := by cases l <;> decide

end Sys2Proof

namespace Sys2Proof.Proofs

open Sys2Proof.Machine Sys2Proof.Claims

/-- Settles O4: the rows in the order of V8, the colors of their tags, the pixel left of the area, which O21 drops, and
the tag with no color at 1 bpp, which FILL refuses. -/
theorem listedWordsDecode : Obligations.ListedWordsDecode := by
  have decodes := @decodeRequest_of_encode_eq
  have turnedAway := @decodeRequest_of_header_error
  refine ⟨decodes rfl rfl, turnedAway rfl, decodes rfl rfl, decodes rfl rfl, turnedAway rfl, decodes rfl rfl,
    decodes rfl rfl, turnedAway rfl, decodes rfl rfl, decodes rfl rfl, turnedAway rfl, turnedAway rfl, decodes rfl rfl,
    decodes rfl rfl, decodes rfl rfl, decodes rfl rfl, decodes rfl rfl, decodes rfl rfl, decodes rfl rfl,
    turnedAway rfl, turnedAway rfl, rfl, rfl, fun l hdepth => ?_, fun s => ?_, fun s hdepth => ?_⟩
  · simp only [Layout.colorOfTag_of_bitDepth_two hdepth]
    decide
  · have hout : ¬ insideArea s.cfg s.rotation (-1) 5 := fun hinside => by
      obtain ⟨⟨hx, -⟩, -⟩ := inBounds_iff_insideArea.2 hinside
      exact absurd hx (by decide)
    exact pixelOutOfBoundsIsDropped s (-1) 5 1 s.cfg.layout.one_lt_two_pow_bitDepth hout
  · have hrefused : Refuses s (.fill 3) := Layout.colorOfTag_eq_none_iff.2 (by rw [hdepth]; decide)
    exact exec_of_refuses hrefused

end Sys2Proof.Proofs
